-- ==== Sys2Proof/Word.lean ====
section
/-! DEFINITION. The word types of the block: bytes, offsets, and the words of the fixed-length formats (R73, R76).

The words whose length depends on the open parameter `AW` are natural numbers: a bus address and `base` below `2^AW`
(R3), a command word below `2^(AW + 2)` (R70), a packed bus request below `2^(AW + 9)` (R75). `AW` is a field of
`Params`, so it is no part of a type, and address arithmetic is reduced modulo `2^AW` in the operations that do it
(DESIGN CHOICE, safe: assumption 1). -/

namespace Sys2Proof

/-- A byte: the unit of every access (R52). -/
abbrev Byte := BitVec 8

/-- An offset inside the 8-byte window, 0 to 7 (R30). -/
abbrev Offset := BitVec 3

/-- A response word, format `RSP`, 11 bits (R73). -/
abbrev RspWord := BitVec 11

/-- A window transaction, format `XACT`, 12 bits (R76). -/
abbrev XactWord := BitVec 12

end Sys2Proof
end

