-- ==== Sys2Proof/Config.lean ====
section
/-! DEFINITION. What the platform fixes (the open parameters of 92_eei_decisions.md) and the free values: the
values the spec leaves open, as constants without a body. -/

namespace Sys2Proof

/-- The open parameters a model takes as arguments. They stand in `State`, so that a statement about every state
holds for every value of them. -/
structure Params where
  /-- `AW`, the width in bits of a bus address and of `base` (R3). -/
  addrWidth : Nat
  /-- `BUDGET`, the most polls one SEND or RECV makes (R4), any natural number. -/
  budget    : Nat
  /-- `DEV_BASE`, where the platform has put the one device (R59). -/
  devBase   : Nat
  /-- `FIFO_DEPTH`, the queue depth of `DEV_FIFO` only (R180). -/
  fifoDepth : Nat
  deriving DecidableEq, Repr

namespace Config

/-- The defaults of the spec's table of open parameters: `AW` 64, `BUDGET` 1000, `DEV_BASE` 0x10000000,
`FIFO_DEPTH` 16. -/
def defaults : Params := { addrWidth := 64, budget := 1000, devBase := 0x10000000, fifoDepth := 16 }

/-- The `choice` of R140: the byte a read answers where the spec says "any value". Applied to the draw counter. -/
opaque freeByte : Nat → Byte

/-- What `base` holds after a controller reset, before it is cut to `AW` bits (R230: left unspecified). -/
opaque freeAddr : Nat → Nat

/-- What `cnt` holds after a controller reset, before it is cut to `CNTW` bits (R230: left unspecified). -/
opaque freeCount : Nat → Nat

/-- A yes or no of the abstract device the spec leaves open, by draw and by the question asked: 0, whether it signals
an interrupt now (R206); 1 and 2, whether it can take, or has, a DATA byte that no status read has shown (R141, R142);
3 to 5, its three flags where its whole state is unspecified (U2, U3). -/
opaque freeBit : Nat → Nat → Bool

/-- What the abstract device's registers hold where its whole state is unspecified (U2, U3), by draw and register. -/
opaque freeRegister : Nat → Nat → Byte

end Config

end Sys2Proof
end

