-- ==== Sys2Proof/Syntax.lean ====
section
/-! DEFINITION. The syntax: the one inductive `Instr`, one constructor per row of the opcode table (R86), in its
three formats, and the small enumerations the formats are made of. -/

namespace Sys2Proof

/-- The three formats of opcode-table rows (R86). -/
inductive Format
  | cmd | seq | xact
  deriving DecidableEq, Repr

/-- The operation codes of a command word (R71). -/
inductive CmdOp
  | create | size | send | recv
  deriving DecidableEq, Repr

/-- The thirteen values of the sequencer state register `st` (R20). The values 13 to 15 have no constructor (R79 b). -/
inductive SeqState
  | idle | init1 | init2 | init3a | init3b | init4 | init5 | init6 | init7
  | txpoll | txwrite | rxpoll | rxread
  deriving DecidableEq, Repr

/-- The instructions: four host commands, thirteen sequencer states, twenty window accesses.
A command carries the whole operand field `arg`; a write carries the byte written; a read carries the request's
data lane, which R76 says is 0x00 and which no device looks at (R75). -/
inductive Instr
  -- host commands (R71)
  | create (arg : Nat)
  | size (arg : Nat)
  | send (arg : Nat)
  | recv (arg : Nat)
  -- sequencer states (R80)
  | idle
  | init1
  | init2
  | init3a
  | init3b
  | init4
  | init5
  | init6
  | init7
  | txpoll
  | txwrite
  | rxpoll
  | rxread
  -- window accesses (R78)
  | wrData (v : Byte)
  | rdData (lane : Byte)
  | wrDivisorLsb (v : Byte)
  | rdDivisorLsb (lane : Byte)
  | wrDivisorMsb (v : Byte)
  | rdDivisorMsb (lane : Byte)
  | wrIrqEnable (v : Byte)
  | rdIrqEnable (lane : Byte)
  | wrFifoControl (v : Byte)
  | rdIrqId (lane : Byte)
  | wrLineControl (v : Byte)
  | rdLineControl (lane : Byte)
  | wrModemControl (v : Byte)
  | rdModemControl (lane : Byte)
  | rdLineStatus (lane : Byte)
  | wrLineStatus (v : Byte)
  | rdOffset6 (lane : Byte)
  | wrOffset6 (v : Byte)
  | rdOffset7 (lane : Byte)
  | wrOffset7 (v : Byte)
  deriving DecidableEq, Repr

/-- The format of an instruction's row. -/
def Instr.format : Instr → Format
  | .create _ | .size _ | .send _ | .recv _ => .cmd
  | .idle | .init1 | .init2 | .init3a | .init3b | .init4 | .init5 | .init6 | .init7
  | .txpoll | .txwrite | .rxpoll | .rxread => .seq
  | .wrData _ | .rdData _ | .wrDivisorLsb _ | .rdDivisorLsb _ | .wrDivisorMsb _ | .rdDivisorMsb _
  | .wrIrqEnable _ | .rdIrqEnable _ | .wrFifoControl _ | .rdIrqId _ | .wrLineControl _ | .rdLineControl _
  | .wrModemControl _ | .rdModemControl _ | .rdLineStatus _ | .wrLineStatus _
  | .rdOffset6 _ | .wrOffset6 _ | .rdOffset7 _ | .wrOffset7 _ => .xact

/-- The DLAB a row needs: `none` where the table says "any" or the row is no window access (R78). -/
def Instr.context : Instr → Option Bool
  | .wrData _ | .rdData _ | .wrIrqEnable _ | .rdIrqEnable _ => some false
  | .wrDivisorLsb _ | .rdDivisorLsb _ | .wrDivisorMsb _ | .rdDivisorMsb _ => some true
  | .create _ | .size _ | .send _ | .recv _
  | .idle | .init1 | .init2 | .init3a | .init3b | .init4 | .init5 | .init6 | .init7
  | .txpoll | .txwrite | .rxpoll | .rxread
  | .wrFifoControl _ | .rdIrqId _ | .wrLineControl _ | .rdLineControl _
  | .wrModemControl _ | .rdModemControl _ | .rdLineStatus _ | .wrLineStatus _
  | .rdOffset6 _ | .wrOffset6 _ | .rdOffset7 _ | .wrOffset7 _ => none

/-- The context is met by a DLAB value. -/
def Instr.fitsDlab (i : Instr) (dlab : Bool) : Bool :=
  match i.context with
  | none => true
  | some b => b == dlab

end Sys2Proof
end

