-- ==== Sys2Proof/WellFormed.lean ====
section
/-! DEFINITION. Which instructions and parameters are well-formed. Most operand widths are in the types; what is left to
check is the width of a command's operand (R70, R3), the data lane of a read request (R76) and the constraints on the
open parameters (92_eei_decisions.md). -/

namespace Sys2Proof

/-- The operand of a command has `AW` bits (R70). -/
def Instr.fitsWidth (aw : Nat) : Instr → Bool
  | .create arg | .size arg | .send arg | .recv arg => decide (arg < 2 ^ aw)
  | .idle | .init1 | .init2 | .init3a | .init3b | .init4 | .init5 | .init6 | .init7
  | .txpoll | .txwrite | .rxpoll | .rxread
  | .wrData _ | .rdData _ | .wrDivisorLsb _ | .rdDivisorLsb _ | .wrDivisorMsb _ | .rdDivisorMsb _
  | .wrIrqEnable _ | .rdIrqEnable _ | .wrFifoControl _ | .rdIrqId _ | .wrLineControl _ | .rdLineControl _
  | .wrModemControl _ | .rdModemControl _ | .rdLineStatus _ | .wrLineStatus _
  | .rdOffset6 _ | .wrOffset6 _ | .rdOffset7 _ | .wrOffset7 _ => true

/-- A read's data lane is 0x00 in the request (R76). -/
def Instr.laneClear : Instr → Bool
  | .rdData lane | .rdDivisorLsb lane | .rdDivisorMsb lane | .rdIrqEnable lane | .rdIrqId lane
  | .rdLineControl lane | .rdModemControl lane | .rdLineStatus lane | .rdOffset6 lane | .rdOffset7 lane =>
      lane == 0x00#8
  | .create _ | .size _ | .send _ | .recv _
  | .idle | .init1 | .init2 | .init3a | .init3b | .init4 | .init5 | .init6 | .init7
  | .txpoll | .txwrite | .rxpoll | .rxread
  | .wrData _ | .wrDivisorLsb _ | .wrDivisorMsb _ | .wrIrqEnable _ | .wrFifoControl _ | .wrLineControl _
  | .wrModemControl _ | .wrLineStatus _ | .wrOffset6 _ | .wrOffset7 _ => true

/-- Every instruction whose operand fits and whose lane is clear is well-formed: no command word is illegal
(R79 a). -/
def Instr.wellFormed (aw : Nat) (i : Instr) : Bool := i.fitsWidth aw && i.laneClear

/-- The constraints on the open parameters: `AW >= 4` (R3), `DEV_BASE <= 2^AW - 8` (R59, D35), `FIFO_DEPTH >= 1`
(D19). -/
def Params.wellFormed (p : Params) : Bool :=
  decide (4 ≤ p.addrWidth) && decide (p.devBase + 8 ≤ 2 ^ p.addrWidth) && decide (1 ≤ p.fifoDepth)

end Sys2Proof
end

