-- ==== Sys2Proof/Decode.lean ====
section
/-! DEFINITION. The decoders of the three formats, total and rejecting by name, and after them the encoder, both
written from 30_encoding.md; the opcode table's rows as data; and the host's reading of a table word. -/

namespace Sys2Proof

/-! ### Field extraction -/

/-- `op`, bits 1:0 of a command word (R70). -/
def cmdOpBits (w : Nat) : BitVec 2 := BitVec.ofNat 2 w

/-- `arg`, bits `AW + 1`:2 of a command word (R70). -/
def cmdArg (aw : Nat) (w : Nat) : Nat := w / 4 % 2 ^ aw

/-- `rw`, bit 11 of a window transaction: 1 is a write (R76). -/
def xactRw (w : XactWord) : Bool := w.getLsbD 11

/-- `off`, bits 10:8 (R76). -/
def xactOff (w : XactWord) : Offset := w.extractLsb' 8 3

/-- `data`, bits 7:0 (R76). -/
def xactData (w : XactWord) : Byte := w.extractLsb' 0 8

/-- The operation codes; all four values are used (R71). -/
def cmdOpOf (b : BitVec 2) : CmdOp :=
  match b.toNat with
  | 0 => .create
  | 1 => .size
  | 2 => .send
  | _ => .recv

/-- The operation of a command word. -/
def cmdOp (w : Nat) : CmdOp := cmdOpOf (cmdOpBits w)

/-! ### Decoders -/

/-- Why a number is no word of a format. -/
inductive DecodeError
  /-- A command word has `AW + 2` bits (R70). -/
  | cmdTooWide
  /-- `st` has four bits (R20). -/
  | seqTooWide
  /-- `st` values 13 to 15 are no state (R79 b). -/
  | seqReserved
  /-- A window transaction has 12 bits (R76). -/
  | xactTooWide
  deriving DecidableEq, Repr

/-- Every command word is an operation with its operand (R72, R79 a). -/
def decodeCmd (aw : Nat) (w : Nat) : Instr :=
  match cmdOp w with
  | .create => .create (cmdArg aw w)
  | .size => .size (cmdArg aw w)
  | .send => .send (cmdArg aw w)
  | .recv => .recv (cmdArg aw w)

/-- The state a value of `st` names (R20); 13 to 15 name none (R79 b). -/
def seqStateOf (w : Nat) : Option SeqState :=
  match w with
  | 0 => some .idle
  | 1 => some .init1
  | 2 => some .init2
  | 3 => some .init3a
  | 4 => some .init3b
  | 5 => some .init4
  | 6 => some .init5
  | 7 => some .init6
  | 8 => some .init7
  | 9 => some .txpoll
  | 10 => some .txwrite
  | 11 => some .rxpoll
  | 12 => some .rxread
  | _ => none

/-- The microprogram row a state runs (R80). -/
def SeqState.instr : SeqState → Instr
  | .idle => .idle
  | .init1 => .init1
  | .init2 => .init2
  | .init3a => .init3a
  | .init3b => .init3b
  | .init4 => .init4
  | .init5 => .init5
  | .init6 => .init6
  | .init7 => .init7
  | .txpoll => .txpoll
  | .txwrite => .txwrite
  | .rxpoll => .rxpoll
  | .rxread => .rxread

/-- The complete decode of a window access under the DLAB the device holds (R77, R78). -/
def decodeXact (dlab : Bool) (w : XactWord) : Instr :=
  let d := xactData w
  if xactRw w then
    match (xactOff w).toNat with
    | 0 => if dlab then .wrDivisorLsb d else .wrData d
    | 1 => if dlab then .wrDivisorMsb d else .wrIrqEnable d
    | 2 => .wrFifoControl d
    | 3 => .wrLineControl d
    | 4 => .wrModemControl d
    | 5 => .wrLineStatus d
    | 6 => .wrOffset6 d
    | _ => .wrOffset7 d
  else
    match (xactOff w).toNat with
    | 0 => if dlab then .rdDivisorLsb d else .rdData d
    | 1 => if dlab then .rdDivisorMsb d else .rdIrqEnable d
    | 2 => .rdIrqId d
    | 3 => .rdLineControl d
    | 4 => .rdModemControl d
    | 5 => .rdLineStatus d
    | 6 => .rdOffset6 d
    | _ => .rdOffset7 d

/-- The decoder, total on every number in every format under either DLAB and every `AW`. `AW` matters to `cmd` only
(R70) and DLAB to `xact` only (R85). -/
def decode (aw : Nat) (f : Format) (dlab : Bool) (w : Nat) : Except DecodeError Instr :=
  match f with
  | .cmd => if w < 2 ^ (aw + 2) then .ok (decodeCmd aw w) else .error .cmdTooWide
  | .seq =>
      if w < 16 then
        match seqStateOf w with
        | some st => .ok st.instr
        | none => .error .seqReserved
      else .error .seqTooWide
  | .xact => if w < 2 ^ 12 then .ok (decodeXact dlab (BitVec.ofNat _ w)) else .error .xactTooWide

/-- Bytes as one number, the first byte least significant: how the table numbers an instruction's bits. -/
def bytesToNat : List Byte → Nat
  | [] => 0
  | b :: bs => b.toNat + 256 * bytesToNat bs

/-- The decoder on any bytes. -/
def decodeBytes (aw : Nat) (f : Format) (dlab : Bool) (bs : List Byte) : Except DecodeError Instr :=
  decode aw f dlab (bytesToNat bs)

/-! ### Encoder -/

/-- `op` of an operation (R71). -/
def CmdOp.bits : CmdOp → BitVec 2
  | .create => 0b00#2
  | .size => 0b01#2
  | .send => 0b10#2
  | .recv => 0b11#2

/-- A command word: `arg * 4 + op`, that is `arg` above `op` (R70). -/
def cmdWord (op : CmdOp) (arg : Nat) : Nat := arg * 4 + op.bits.toNat

/-- The value of a sequencer state (R20). -/
def SeqState.code : SeqState → Nat
  | .idle => 0
  | .init1 => 1
  | .init2 => 2
  | .init3a => 3
  | .init3b => 4
  | .init4 => 5
  | .init5 => 6
  | .init6 => 7
  | .init7 => 8
  | .txpoll => 9
  | .txwrite => 10
  | .rxpoll => 11
  | .rxread => 12

/-- A window transaction: `0x800 + off * 0x100 + data` for a write, without the `0x800` for a read (R76). -/
def xactWord (rw : Bool) (off : Offset) (data : Byte) : XactWord :=
  BitVec.ofNat _ ((if rw then 0x800 else 0) + off.toNat * 0x100 + data.toNat)

/-- The word of an instruction, as a number in its format (R70, R20, R78). -/
def encode : Instr → Nat
  | .create arg => cmdWord .create arg
  | .size arg => cmdWord .size arg
  | .send arg => cmdWord .send arg
  | .recv arg => cmdWord .recv arg
  | .idle => SeqState.code .idle
  | .init1 => SeqState.code .init1
  | .init2 => SeqState.code .init2
  | .init3a => SeqState.code .init3a
  | .init3b => SeqState.code .init3b
  | .init4 => SeqState.code .init4
  | .init5 => SeqState.code .init5
  | .init6 => SeqState.code .init6
  | .init7 => SeqState.code .init7
  | .txpoll => SeqState.code .txpoll
  | .txwrite => SeqState.code .txwrite
  | .rxpoll => SeqState.code .rxpoll
  | .rxread => SeqState.code .rxread
  | .wrData v => (xactWord true 0 v).toNat
  | .rdData lane => (xactWord false 0 lane).toNat
  | .wrDivisorLsb v => (xactWord true 0 v).toNat
  | .rdDivisorLsb lane => (xactWord false 0 lane).toNat
  | .wrDivisorMsb v => (xactWord true 1 v).toNat
  | .rdDivisorMsb lane => (xactWord false 1 lane).toNat
  | .wrIrqEnable v => (xactWord true 1 v).toNat
  | .rdIrqEnable lane => (xactWord false 1 lane).toNat
  | .wrFifoControl v => (xactWord true 2 v).toNat
  | .rdIrqId lane => (xactWord false 2 lane).toNat
  | .wrLineControl v => (xactWord true 3 v).toNat
  | .rdLineControl lane => (xactWord false 3 lane).toNat
  | .wrModemControl v => (xactWord true 4 v).toNat
  | .rdModemControl lane => (xactWord false 4 lane).toNat
  | .rdLineStatus lane => (xactWord false 5 lane).toNat
  | .wrLineStatus v => (xactWord true 5 v).toNat
  | .rdOffset6 lane => (xactWord false 6 lane).toNat
  | .wrOffset6 v => (xactWord true 6 v).toNat
  | .rdOffset7 lane => (xactWord false 7 lane).toNat
  | .wrOffset7 v => (xactWord true 7 v).toNat

/-! ### The opcode table as data (R86) -/

/-- The name of an instruction's row in the opcode table. -/
def Instr.mnemonic : Instr → String
  | .create _ => "CREATE"
  | .size _ => "SIZE"
  | .send _ => "SEND"
  | .recv _ => "RECV"
  | .idle => "IDLE"
  | .init1 => "INIT1"
  | .init2 => "INIT2"
  | .init3a => "INIT3A"
  | .init3b => "INIT3B"
  | .init4 => "INIT4"
  | .init5 => "INIT5"
  | .init6 => "INIT6"
  | .init7 => "INIT7"
  | .txpoll => "TXPOLL"
  | .txwrite => "TXWRITE"
  | .rxpoll => "RXPOLL"
  | .rxread => "RXREAD"
  | .wrData _ => "WR_DATA"
  | .rdData _ => "RD_DATA"
  | .wrDivisorLsb _ => "WR_DIVISOR_LSB"
  | .rdDivisorLsb _ => "RD_DIVISOR_LSB"
  | .wrDivisorMsb _ => "WR_DIVISOR_MSB"
  | .rdDivisorMsb _ => "RD_DIVISOR_MSB"
  | .wrIrqEnable _ => "WR_IRQ_ENABLE"
  | .rdIrqEnable _ => "RD_IRQ_ENABLE"
  | .wrFifoControl _ => "WR_FIFO_CONTROL"
  | .rdIrqId _ => "RD_IRQ_ID"
  | .wrLineControl _ => "WR_LINE_CONTROL"
  | .rdLineControl _ => "RD_LINE_CONTROL"
  | .wrModemControl _ => "WR_MODEM_CONTROL"
  | .rdModemControl _ => "RD_MODEM_CONTROL"
  | .rdLineStatus _ => "RD_LINE_STATUS"
  | .wrLineStatus _ => "WR_LINE_STATUS"
  | .rdOffset6 _ => "RD_OFFSET6"
  | .wrOffset6 _ => "WR_OFFSET6"
  | .rdOffset7 _ => "RD_OFFSET7"
  | .wrOffset7 _ => "WR_OFFSET7"

/-- A row: its mnemonic, its format, the mask and match of the table, and the DLAB it needs. -/
structure OpcodeRow where
  mnemonic : String
  format   : Format
  mask     : Nat
  pattern  : Nat
  dlab     : Option Bool
  deriving DecidableEq, Repr

/-- A word matches a row under a DLAB. -/
def rowMatches (r : OpcodeRow) (f : Format) (dlab : Bool) (w : Nat) : Bool :=
  decide (r.format = f) && decide (w &&& r.mask = r.pattern) && (r.dlab == none || r.dlab == some dlab)

/-- The rows of format `CMD`: match under mask 0x3. -/
def cmdRows : List OpcodeRow :=
  [⟨"CREATE", .cmd, 0x3, 0x0, none⟩,
   ⟨"SIZE", .cmd, 0x3, 0x1, none⟩,
   ⟨"SEND", .cmd, 0x3, 0x2, none⟩,
   ⟨"RECV", .cmd, 0x3, 0x3, none⟩]

/-- The rows of format `SEQ`: match under mask 0xF. -/
def seqRows : List OpcodeRow :=
  [⟨"IDLE", .seq, 0xF, 0x0, none⟩,
   ⟨"INIT1", .seq, 0xF, 0x1, none⟩,
   ⟨"INIT2", .seq, 0xF, 0x2, none⟩,
   ⟨"INIT3A", .seq, 0xF, 0x3, none⟩,
   ⟨"INIT3B", .seq, 0xF, 0x4, none⟩,
   ⟨"INIT4", .seq, 0xF, 0x5, none⟩,
   ⟨"INIT5", .seq, 0xF, 0x6, none⟩,
   ⟨"INIT6", .seq, 0xF, 0x7, none⟩,
   ⟨"INIT7", .seq, 0xF, 0x8, none⟩,
   ⟨"TXPOLL", .seq, 0xF, 0x9, none⟩,
   ⟨"TXWRITE", .seq, 0xF, 0xA, none⟩,
   ⟨"RXPOLL", .seq, 0xF, 0xB, none⟩,
   ⟨"RXREAD", .seq, 0xF, 0xC, none⟩]

/-- The rows of format `XACT`: match under mask 0xF00, with the DLAB of R78. -/
def xactRows : List OpcodeRow :=
  [⟨"WR_DATA", .xact, 0xF00, 0x800, some false⟩,
   ⟨"RD_DATA", .xact, 0xF00, 0x000, some false⟩,
   ⟨"WR_DIVISOR_LSB", .xact, 0xF00, 0x800, some true⟩,
   ⟨"RD_DIVISOR_LSB", .xact, 0xF00, 0x000, some true⟩,
   ⟨"WR_DIVISOR_MSB", .xact, 0xF00, 0x900, some true⟩,
   ⟨"RD_DIVISOR_MSB", .xact, 0xF00, 0x100, some true⟩,
   ⟨"WR_IRQ_ENABLE", .xact, 0xF00, 0x900, some false⟩,
   ⟨"RD_IRQ_ENABLE", .xact, 0xF00, 0x100, some false⟩,
   ⟨"WR_FIFO_CONTROL", .xact, 0xF00, 0xA00, none⟩,
   ⟨"RD_IRQ_ID", .xact, 0xF00, 0x200, none⟩]
  ++
  [⟨"WR_LINE_CONTROL", .xact, 0xF00, 0xB00, none⟩,
   ⟨"RD_LINE_CONTROL", .xact, 0xF00, 0x300, none⟩,
   ⟨"WR_MODEM_CONTROL", .xact, 0xF00, 0xC00, none⟩,
   ⟨"RD_MODEM_CONTROL", .xact, 0xF00, 0x400, none⟩,
   ⟨"RD_LINE_STATUS", .xact, 0xF00, 0x500, none⟩,
   ⟨"WR_LINE_STATUS", .xact, 0xF00, 0xD00, none⟩,
   ⟨"RD_OFFSET6", .xact, 0xF00, 0x600, none⟩,
   ⟨"WR_OFFSET6", .xact, 0xF00, 0xE00, none⟩,
   ⟨"RD_OFFSET7", .xact, 0xF00, 0x700, none⟩,
   ⟨"WR_OFFSET7", .xact, 0xF00, 0xF00, none⟩]

/-- All 37 rows. -/
def opcodeRows : List OpcodeRow := cmdRows ++ seqRows ++ xactRows

/-- The rows a word matches. -/
def matchingRows (f : Format) (dlab : Bool) (w : Nat) : List OpcodeRow :=
  opcodeRows.filter fun r => rowMatches r f dlab w

/-! ### Table words

The table's three formats share small numbers, and a table word carries no format. The reading here
(DESIGN CHOICE, assumption 18): up to 8 bits, 0 to 3 is a command and 4 to 12 a sequencer state; up to 16 bits, a
window transaction under the DLAB of the device at reset; wider, a command of the default `AW`. -/

/-- The format a table word of `nbits` bits is read in. -/
def tableFormat (nbits w : Nat) : Format :=
  if nbits ≤ 8 then (if w < 4 then .cmd else .seq) else if nbits ≤ 16 then .xact else .cmd

/-- The instruction the decoder reads from a table word; DLAB is 0, as `State.reset` has it. -/
def decodeTableWord (nbits w : Nat) : Option Instr :=
  match decode Config.defaults.addrWidth (tableFormat nbits w) false w with
  | .ok i => some i
  | .error _ => none

end Sys2Proof
end

