-- ==== Sys2Proof/Machine/State.lean ====
section
/-! DEFINITION. The state of the whole: the controller, its ports, the device behind the window, the trace; and the
reasons a step can stop. -/

namespace Sys2Proof.Machine

/-- The hardware has no traps and no bus error response (60_exceptions.md, D10): nothing faults. -/
inductive Fault
  deriving DecidableEq, Repr

/-- Why the model gives a step no meaning. Each is safe: no claim is made about such a run. -/
inductive Refusal
  /-- Raised by an arm of `exec` that has no meaning yet; none is left. Safe. -/
  | notModelled (mnemonic : String)
  /-- Raised by WR_LINE_STATUS: "A model refuses it" (R156, U10). Safe. -/
  | writeLineStatus
  /-- Raised by WR_OFFSET6: "a model refuses it" (R158, U7). Safe. -/
  | writeOffset6
  /-- Raised by WR_OFFSET7: "a model refuses it" (R160, U7). Safe. -/
  | writeOffset7
  /-- Raised by CREATE, and by an access of the controller, under an address whose window passes the top of the address
  space: "a model refuses it" (R51, D9, U15). Safe. -/
  | windowWraps
  /-- Raised by CREATE, and by an access of the controller, under an address that is not `DEV_BASE`: "a model refuses a
  CREATE whose window is not the device's" (R59, D35, U1). Safe. -/
  | windowNotDevice
  /-- Raised by a foreign access outside the device's window (R59). Safe. -/
  | addressNotDevice
  /-- Raised by an access wider than a byte (R52, D10). Safe. -/
  | wideAccess
  /-- Raised by a foreign access while the controller is busy (R205 b, U6). Safe. -/
  | unserialisedAccess
  deriving DecidableEq, Repr

/-! ### The device behind the window -/

/-- The receive trigger levels (R35, R180). -/
inductive Trigger
  | one | four | eight | fourteen
  deriving DecidableEq, Repr

/-- The abstract device (R140): the registers the window names, each holding the byte last written to it, and what is
known of its readiness. What a read answers is a free value, so no register here is read back; `lcr` gives DLAB, `ier`
and `mcr` gate the interrupt (DESIGN CHOICE, assumptions 15 and 16). -/
structure AbsDev where
  /-- DATA, transmit side: the byte last handed to the device (R32, R141). -/
  thr : Byte
  /-- DATA, receive side: the byte last taken from the device (R32, R142). -/
  rbr : Byte
  /-- DIVISOR_LSB (R33). -/
  dll : Byte
  /-- DIVISOR_MSB (R33). -/
  dlm : Byte
  /-- IRQ_ENABLE (R34). -/
  ier : Byte
  /-- FIFO_CONTROL (R35). -/
  fcr : Byte
  /-- LINE_CONTROL (R36); bit 7 is DLAB (R31). -/
  lcr : Byte
  /-- MODEM_CONTROL (R37). -/
  mcr : Byte
  /-- The last status byte showed THRE, and DATA has not been written since (R38, R239): a DATA write is in order. -/
  thre : Bool
  /-- The last status byte showed DR, and no byte has been read or cleared since (R38, R239): a DATA read is in order. -/
  dr : Bool
  /-- No received byte is pending: the receive FIFO has been cleared and no byte has come since (R149). -/
  rxEmpty : Bool
  deriving DecidableEq, Repr

/-- `DEV_REGFILE`, the test double (R170): eight stored bytes, and the schedule of status bytes (R174). -/
structure RegFile where
  data : Byte
  dll  : Byte
  dlm  : Byte
  ier  : Byte
  fcr  : Byte
  lcr  : Byte
  mcr  : Byte
  /-- What the next read of offset 5 answers. -/
  lsr  : Byte
  /-- What later reads of offset 5 answer, in order, the last repeating (R174; DESIGN CHOICE, assumption 22); empty when
  `lsr` is plain. -/
  later : List Byte
  deriving DecidableEq, Repr

/-- `DEV_FIFO`, the behavioural device (R180). -/
structure FifoDev where
  ier : Byte
  lcr : Byte
  mcr : Byte
  dll : Byte
  dlm : Byte
  /-- FIFOs enabled. -/
  fifoEn : Bool
  /-- Receive trigger level. -/
  trig : Trigger
  /-- Received, not yet read; the head is the oldest. -/
  rx : List Byte
  /-- Written, not yet moved to the shifter; the head is the oldest. -/
  tx : List Byte
  /-- The byte being shifted out. -/
  tsr : Option Byte
  /-- Overrun seen since the last LINE_STATUS read. -/
  oe : Bool
  /-- The last byte a DATA read returned. -/
  last : Byte
  /-- Every byte that has left the transmitter, in order. -/
  lineOut : List Byte
  deriving DecidableEq, Repr

/-- The device: the abstract one, or one of the two reference devices (R140, R170, R180). -/
inductive Device
  | abs (d : AbsDev)
  | regfile (d : RegFile)
  | fifo (d : FifoDev)
  deriving DecidableEq, Repr

/-! ### Ports and moves -/

/-- A bus transaction as it stands in the trace (R67, R84). -/
inductive BusEvent
  | rd (off : Offset) (v : Byte)
  | wr (off : Offset) (v : Byte)
  deriving DecidableEq, Repr

/-- A bus request on a master port (R75). -/
structure BusReq where
  write : Bool
  addr  : Nat
  wdata : Byte
  deriving DecidableEq, Repr

/-- The device's own steps, the relation `env` of R140: those of `DEV_FIFO` (R192) and the test's actions on
`DEV_REGFILE` (R174). -/
inductive EnvStep
  | rxArrive (b : Byte)
  | txLoad
  | txDone
  | setThre
  | clearThre
  | setDr
  | clearDr
  | setData (v : Byte)
  | setSchedule (now : Byte) (later : List Byte)
  deriving DecidableEq, Repr

/-- Which agent moves, and what it does: the host, the controller, the device and the reset input. Other bus masters
have no move (R7, D23, R213). -/
inductive Move
  /-- The controller takes a step (R90). -/
  | controller
  /-- The host offers a command word at the command port (R95). -/
  | offer (w : Nat)
  /-- The host takes the oldest response (R7). -/
  | take
  /-- The device takes a step of its own (R140). -/
  | env (e : EnvStep)
  /-- The reset input is asserted (R230). -/
  | reset
  deriving DecidableEq, Repr

/-- A request of `size` bytes that stands at the window and is not the controller's. -/
structure ForeignAccess where
  req  : BusReq
  size : Nat
  deriving DecidableEq, Repr

/-- The state. INVENTORY.md's '## State' lists every field with its rule and its reset value. -/
structure State where
  /-- The open parameters; no step changes them. -/
  params : Params
  /-- The sequencer state register (R20). -/
  st     : SeqState
  /-- The base address, `AW` bits (R21, R3). -/
  base   : Nat
  /-- A CREATE has completed (R22). -/
  inited : Bool
  /-- The byte a SEND will write (R23). -/
  val    : Byte
  /-- The poll counter, `CNTW` bits (R24); a number kept below `2^CNTW` (DEDUCED, assumption 17). -/
  cnt    : Nat
  /-- Command words offered and not yet accepted, oldest first (R95; DESIGN CHOICE, assumption 25). -/
  port   : List Nat
  /-- Response words emitted and not yet taken, oldest first (R73; DESIGN CHOICE, assumption 24). -/
  rsp    : List RspWord
  /-- `rdata`, the byte that answered the last bus read (R75; DESIGN CHOICE, assumption 13). -/
  rdata  : Byte
  /-- The device behind the window (R140). -/
  dev    : Device
  /-- The bus trace since reset, oldest first (R67); only claims read it. -/
  trace  : List BusEvent
  /-- The moves to come, first first; with none left the controller moves (the model's own, assumption 3). -/
  moves  : List Move
  /-- How many free values have been drawn (the model's own, assumption 4). -/
  draws  : Nat
  /-- A request at the window placed from outside the machine; no step and no move ever places one, and "there is none"
  is the premise that no other agent accesses the window (R213; the model's own, assumption 10). -/
  foreign : Option ForeignAccess
  deriving DecidableEq, Repr

/-- The abstract device with the customary power-on values of R231 (PRESUMED in the spec's own marking, `[GK]`;
assumption 7): LINE_STATUS 0x60 is THRE shown and DR not, and FIFOs disabled and empty. -/
def AbsDev.powerOn : AbsDev :=
  { thr := 0x00#8, rbr := 0x00#8, dll := 0x00#8, dlm := 0x00#8, ier := 0x00#8, fcr := 0x00#8, lcr := 0x00#8, mcr := 0x00#8,
    thre := true, dr := false, rxEmpty := true }

/-- `DEV_REGFILE` at the start of a test: all 0x00 (R170). -/
def RegFile.start : RegFile :=
  { data := 0x00#8, dll := 0x00#8, dlm := 0x00#8, ier := 0x00#8, fcr := 0x00#8, lcr := 0x00#8, mcr := 0x00#8, lsr := 0x00#8, later := [] }

/-- `DEV_FIFO` after its hardware reset (R193); `dll` and `dlm` "hold any value", here the ones given. -/
def FifoDev.start (dll dlm : Byte) : FifoDev :=
  { ier := 0x00#8, lcr := 0x00#8, mcr := 0x00#8, dll := dll, dlm := dlm, fifoEn := false, trig := .one, rx := [], tx := [],
    tsr := none, oe := false, last := 0x00#8, lineOut := [] }

/-- The machine right after reset: IDLE, not created, nothing pending (R230, R41). `base`, `val` and `cnt` are
unspecified there and zero here (DESIGN CHOICE, assumption 6). -/
def State.reset : State :=
  { params := Config.defaults, st := .idle, base := 0, inited := false, val := 0x00#8, cnt := 0,
    port := [], rsp := [], rdata := 0x00#8, dev := .abs AbsDev.powerOn, trace := [], moves := [], draws := 0,
    foreign := none }

end Sys2Proof.Machine
end

