-- ==== Sys2Proof/Machine/Operands.lean ====
section
/-! DEFINITION. The constants of the block (R6), operand assembly (R72), effective addresses (R51), and the words the
controller puts out: responses (R73, R74), bus requests (R75), trace words (R76). -/

namespace Sys2Proof.Machine

/-! ### Constants (R2, R5, R6) -/

/-- The window holds 8 bytes (R2). -/
def windowSize : Byte := 8#8

def offData : Offset := 0#3
def offIer : Offset := 1#3
def offFcr : Offset := 2#3
def offLcr : Offset := 3#3
def offMcr : Offset := 4#3
def offLsr : Offset := 5#3

def ierOff : Byte := 0x00#8
def lcrDlab : Byte := 0x80#8
def dllInit : Byte := 0x03#8
def dlmInit : Byte := 0x00#8
def lcr8n1 : Byte := 0x03#8
def fcrInit : Byte := 0xC7#8
def mcrInit : Byte := 0x0B#8
def ierRx : Byte := 0x01#8
def lsrDr : Byte := 0x01#8
def lsrThre : Byte := 0x20#8

/-- The line rate at divisor 1, in bits per second (R5, C7). -/
def refRate : Nat := 115200

/-- The one line rate the block programs (R5). -/
def targetBaud : Nat := 38400

/-- `{DIVISOR_MSB, DIVISOR_LSB}` as a 16-bit number (R33). -/
def divisorOf (dlm dll : Byte) : BitVec 16 := BitVec.ofNat _ (dlm.toNat * 256 + dll.toNat)

/-- The line rate a divisor gives, where the spec gives one: the division is exact (R162). A divisor of 0 and a
divisor that does not divide `REF_RATE` have no rate in the spec (U9; DEDUCED, assumption 21). -/
def lineRate (divisor : BitVec 16) : Option Nat :=
  if divisor = 0 then none
  else if refRate % divisor.toNat = 0 then some (refRate / divisor.toNat) else none

/-! ### Operands of a command (R72) -/

/-- CREATE uses all of `arg`. -/
def createOperand (arg : Nat) : Nat := arg

/-- SEND uses `arg[7:0]` and ignores the rest. -/
def sendOperand (arg : Nat) : Byte := BitVec.ofNat 8 arg

/-! ### Effective address (R51) -/

/-- `a + b` modulo `2^AW` (R51). -/
def addrAdd (aw : Nat) (a b : Nat) : Nat := (a + b) % 2 ^ aw

/-- `a - b` modulo `2^AW` (R66). -/
def addrSub (aw : Nat) (a b : Nat) : Nat := (a + (2 ^ aw - b % 2 ^ aw)) % 2 ^ aw

/-- `base + off` modulo `2^AW`. -/
def effAddr (aw : Nat) (base : Nat) (off : Offset) : Nat := addrAdd aw base off.toNat

/-- The window of `base` passes the top of the address space: `base + 7 > 2^AW - 1` (R51). -/
def windowPassesTop (aw : Nat) (base : Nat) : Bool := decide (2 ^ aw ≤ base + 7)

/-! ### Responses (R73, R74) -/

/-- The named status codes; 5 to 7 are reserved and have no constructor. -/
inductive Status
  | ok | transmitTimeout | receiveTimeout | initError | notCreated
  deriving DecidableEq, Repr

/-- The number of a status (R74). -/
def statusCode : Status → BitVec 3
  | .ok => 0#3
  | .transmitTimeout => 1#3
  | .receiveTimeout => 2#3
  | .initError => 3#3
  | .notCreated => 4#3

/-- The status a number names; 5 to 7 name none (R74). -/
def statusOf (c : BitVec 3) : Option Status :=
  match c.toNat with
  | 0 => some .ok
  | 1 => some .transmitTimeout
  | 2 => some .receiveTimeout
  | 3 => some .initError
  | 4 => some .notCreated
  | _ => none

/-- A response word: `data * 8 + status`, that is `data` above `status` (R73). -/
def rspWord (status : Status) (data : Byte) : RspWord := BitVec.ofNat _ (data.toNat * 8 + (statusCode status).toNat)

/-- `status`, bits 2:0 of a response word (R73). -/
def rspStatus (w : RspWord) : Option Status := statusOf (w.extractLsb' 0 3)

/-- `data`, bits 10:3 of a response word (R73). -/
def rspData (w : RspWord) : Byte := w.extractLsb' 3 8

/-- The failures a command can end with (R200); InitError is none of them (R203). -/
inductive Failure
  | transmitTimeout | receiveTimeout | notCreated
  deriving DecidableEq, Repr

/-- The status that reports a failure (R200). -/
def failureStatus : Failure → Status
  | .transmitTimeout => .transmitTimeout
  | .receiveTimeout => .receiveTimeout
  | .notCreated => .notCreated

/-! ### Bus requests and trace words (R75, R76) -/

/-- The request for a read of `off` on the controller's port. -/
def readReq (aw : Nat) (base : Nat) (off : Offset) : BusReq :=
  { write := false, addr := effAddr aw base off, wdata := 0x00#8 }

/-- The request for a write of `v` at `off` on the controller's port. -/
def writeReq (aw : Nat) (base : Nat) (off : Offset) (v : Byte) : BusReq :=
  { write := true, addr := effAddr aw base off, wdata := v }

/-- The packed request `{rw, addr, wdata}` (R75). -/
def busWord (aw : Nat) (r : BusReq) : Nat :=
  (if r.write then 2 ^ (aw + 8) else 0) + r.addr % 2 ^ aw * 2 ^ 8 + r.wdata.toNat

/-- The offset a request reaches in a window that starts at `base`: `addr - base` (R66). -/
def reqOffset (aw : Nat) (base : Nat) (r : BusReq) : Offset := BitVec.ofNat 3 (addrSub aw r.addr base)

/-- The request as the device sees it, the address reduced to the offset (R76). -/
def reqXact (aw : Nat) (base : Nat) (r : BusReq) : XactWord := xactWord r.write (reqOffset aw base r) r.wdata

/-- A trace event as an `XACT` word: a read request carries 0x00 (R76). -/
def eventWord : BusEvent → XactWord
  | .rd off _ => xactWord false off 0x00#8
  | .wr off v => xactWord true off v

end Sys2Proof.Machine
end

