-- ==== Sys2Proof/Machine/Flags.lean ====
section
/-! DEFINITION. Flag and status computations: the poll test (R122), the counter's width and increment (R24, R129), the
fields of the device's registers (R31, R34 to R38), the status byte and the interrupt identification of `DEV_FIFO`
(R181, R190). -/

namespace Sys2Proof.Machine

/-! ### The polling unit -/

/-- The poll's condition: the masked bit is 1 in the byte just read (R121, R122). -/
def hit (mask s : Byte) : Bool := (s &&& mask) != 0#8

/-- `CNTW = max(1, ceil(log2(BUDGET + 1)))`: the bits `BUDGET` needs, at least one (R4). -/
def cntWidth (budget : Nat) : Nat := if budget = 0 then 1 else Nat.log2 budget + 1

/-- `cnt + 1` in `CNTW` bits (R121, R24). -/
def cntNext (budget cnt : Nat) : Nat := (cnt + 1) % 2 ^ cntWidth budget

/-! ### Register fields -/

/-- DLAB is bit 7 of LINE_CONTROL (R31). -/
def dlabOf (lcr : Byte) : Bool := lcr.getLsbD 7

/-- OUT2, bit 3 of MODEM_CONTROL, routes the interrupt output (R37). -/
def out2Of (mcr : Byte) : Bool := mcr.getLsbD 3

/-- Bit 0 of IRQ_ENABLE enables the data-received interrupt (R34). -/
def rxIrqEnabled (ier : Byte) : Bool := ier.getLsbD 0

/-- DR is bit 0 of LINE_STATUS (R38). -/
def drOf (lsr : Byte) : Bool := lsr.getLsbD 0

/-- THRE is bit 5 of LINE_STATUS (R38). -/
def threOf (lsr : Byte) : Bool := lsr.getLsbD 5

/-- FIFO_CONTROL: enable, clear receive, clear transmit (R35). -/
def fcrEnable (v : Byte) : Bool := v.getLsbD 0
def fcrClearRx (v : Byte) : Bool := v.getLsbD 1
def fcrClearTx (v : Byte) : Bool := v.getLsbD 2

/-- FIFO_CONTROL bits 7:6, the trigger code: 1, 4, 8 or 14 bytes (R35, R183). -/
def fcrTrigger (v : Byte) : Trigger :=
  match (v.extractLsb' 6 2).toNat with
  | 0 => .one
  | 1 => .four
  | 2 => .eight
  | _ => .fourteen

/-- A trigger level in bytes (R180). -/
def triggerBytes : Trigger → Nat
  | .one => 1
  | .four => 4
  | .eight => 8
  | .fourteen => 14

/-! ### Bytes assembled from bits -/

/-- `{0, temt, thre, 0, 0, 0, oe, dr}` (R181). -/
def lineStatusByte (temt thre oe dr : Bool) : Byte :=
  0#1 ++ BitVec.ofBool temt ++ BitVec.ofBool thre ++ 0#3 ++ BitVec.ofBool oe ++ BitVec.ofBool dr

/-- `{fifo_en, fifo_en, 0, 0, 0, p, 0, not p}` (R190). -/
def irqIdByte (fifoEn p : Bool) : Byte :=
  BitVec.ofBool fifoEn ++ BitVec.ofBool fifoEn ++ 0#3 ++ BitVec.ofBool p ++ 0#1 ++ BitVec.ofBool (!p)

end Sys2Proof.Machine
end

