-- ==== Sys2Proof/Machine/Devices.lean ====
section
/-! DEFINITION. The device side: what each register does when it is written or read, the device's own steps and its
interrupt output, for the abstract device (43_register_access.md) and the two reference devices
(44_reference_devices.md). -/

namespace Sys2Proof.Machine

/-- The registers a write can reach (R78). The write faces of offsets 5, 6 and 7 are none (R156, R158, R160). -/
inductive WriteReg
  | data | divisorLsb | divisorMsb | irqEnable | fifoControl | lineControl | modemControl
  deriving DecidableEq, Repr

/-- The registers a read can reach (R78). -/
inductive ReadReg
  | data | divisorLsb | divisorMsb | irqEnable | irqId | lineControl | modemControl | lineStatus | offset6 | offset7
  deriving DecidableEq, Repr

/-! ### The abstract device (R140) -/

/-- A device whose whole state is unspecified, at draw `n` (U2, U3): every register and every flag is a free value. -/
def AbsDev.unspecified (n : Nat) : AbsDev :=
  { thr := Config.freeRegister n 0, rbr := Config.freeRegister n 1, dll := Config.freeRegister n 2
    dlm := Config.freeRegister n 3, ier := Config.freeRegister n 4, fcr := Config.freeRegister n 5
    lcr := Config.freeRegister n 6, mcr := Config.freeRegister n 7
    thre := Config.freeBit n 3, dr := Config.freeBit n 4, rxEmpty := Config.freeBit n 5 }

/-- WR_DATA (R141): the byte is handed to the transmit side, and THRE may fall. With THRE not shown the device may have
become able to take a byte; if it has not, its state afterwards is unspecified (U3). -/
def AbsDev.writeData (v : Byte) (n : Nat) (d : AbsDev) : AbsDev :=
  if d.thre || Config.freeBit n 1 then { d with thr := v, thre := false } else .unspecified n

/-- RD_DATA (R142), answering `choice`: the byte is taken from the receive side, and DR may fall. With DR not shown a
byte may have arrived; if none has, the device's state afterwards is unspecified (U2). -/
def AbsDev.readData (choice : Byte) (n : Nat) (d : AbsDev) : AbsDev :=
  if d.dr || Config.freeBit n 2 then { d with rbr := choice, dr := false } else .unspecified n

/-- WR_FIFO_CONTROL (R149): the byte is stored; with its bit 1 set (R35) no received byte is pending afterwards. A write
that changes the enable, bit 0, with bit 1 clear empties nothing and keeps `dr` and `rxEmpty`: R35 does not say whether
the receive side is emptied then, and R183 decides it for `DEV_FIFO` only (DESIGN CHOICE, unsafe: assumption 16). -/
def AbsDev.writeFcr (v : Byte) (d : AbsDev) : AbsDev :=
  { d with fcr := v, dr := d.dr && !fcrClearRx v, rxEmpty := d.rxEmpty || fcrClearRx v }

/-- RD_LINE_STATUS (R155), answering `choice`: the device is as the byte shows it. -/
def AbsDev.readStatus (choice : Byte) (d : AbsDev) : AbsDev :=
  { d with thre := threOf choice, dr := drOf choice, rxEmpty := d.rxEmpty && !drOf choice }

/-- A write stores the byte in the register it reaches (R141, R143, R145, R147, R149, R151, R153). -/
def AbsDev.write (r : WriteReg) (v : Byte) (n : Nat) (d : AbsDev) : AbsDev :=
  match r with
  | .data => d.writeData v n
  | .divisorLsb => { d with dll := v }
  | .divisorMsb => { d with dlm := v }
  | .irqEnable => { d with ier := v }
  | .fifoControl => d.writeFcr v
  | .lineControl => { d with lcr := v }
  | .modemControl => { d with mcr := v }

/-- What a read that answers `choice`, which is any value (R140), does: a DATA read takes a byte (R142), a status read
shows the device's readiness (R155), and no other read changes anything (R144, R146, R148, R150, R152, R154, R157,
R159). -/
def AbsDev.read (r : ReadReg) (choice : Byte) (n : Nat) (d : AbsDev) : AbsDev :=
  match r with
  | .data => d.readData choice n
  | .lineStatus => d.readStatus choice
  | .divisorLsb | .divisorMsb | .irqEnable | .irqId | .lineControl | .modemControl | .offset6 | .offset7 => d

/-- A step of the device's own (R140): a byte may arrive. An empty transmitter stays able to take a byte and a received
byte stays until it is read (R239); any other change is seen in the free values of later reads. -/
def AbsDev.env (d : AbsDev) : AbsDev := { d with rxEmpty := false }

/-- The interrupt output: nothing with the data-received source disabled (R147: no other source has an effect), with
OUT2 deasserted (R153) or with no received byte pending (R149), otherwise open (R206: it depends on how many bytes
have arrived; DEDUCED, assumption 15). -/
def AbsDev.irq (choice : Bool) (d : AbsDev) : Bool := rxIrqEnabled d.ier && out2Of d.mcr && !d.rxEmpty && choice

/-! ### `DEV_REGFILE` (R170 to R175) -/

/-- A write stores the byte; no write changes `lsr` (R172). -/
def RegFile.write (r : WriteReg) (v : Byte) (d : RegFile) : RegFile :=
  match r with
  | .data => { d with data := v }
  | .divisorLsb => { d with dll := v }
  | .divisorMsb => { d with dlm := v }
  | .irqEnable => { d with ier := v }
  | .fifoControl => { d with fcr := v }
  | .lineControl => { d with lcr := v }
  | .modemControl => { d with mcr := v }

/-- Moves the schedule of status bytes on by one read, the last byte repeating (R174). -/
def RegFile.advance (d : RegFile) : RegFile :=
  match d.later with
  | [] => d
  | b :: bs => { d with lsr := b, later := bs }

/-- A read returns the stored byte and changes nothing (R173); a status read moves the schedule, if the test gave one
(R174). -/
def RegFile.read (r : ReadReg) (d : RegFile) : Byte × RegFile :=
  match r with
  | .data => (d.data, d)
  | .divisorLsb => (d.dll, d)
  | .divisorMsb => (d.dlm, d)
  | .irqEnable => (d.ier, d)
  | .irqId => (d.fcr, d)
  | .lineControl => (d.lcr, d)
  | .modemControl => (d.mcr, d)
  | .lineStatus => (d.lsr, d.advance)
  | .offset6 => (0x00#8, d)
  | .offset7 => (0x00#8, d)

/-- The test's own actions (R174). The steps of `DEV_FIFO` are no steps of this device. -/
def RegFile.env (e : EnvStep) (d : RegFile) : RegFile :=
  match e with
  | .setThre => { d with lsr := d.lsr ||| 0x20#8 }
  | .clearThre => { d with lsr := d.lsr &&& ~~~0x20#8 }
  | .setDr => { d with lsr := d.lsr ||| 0x01#8 }
  | .clearDr => { d with lsr := d.lsr &&& ~~~0x01#8 }
  | .setData v => { d with data := v }
  | .setSchedule now later => { d with lsr := now, later := later }
  | .rxArrive _ | .txLoad | .txDone => d

/-! ### `DEV_FIFO` (R180 to R195) -/

/-- `cap`: `FIFO_DEPTH` with the FIFOs enabled, 1 without (R180). -/
def FifoDev.cap (depth : Nat) (d : FifoDev) : Nat := if d.fifoEn then depth else 1

/-- The status byte (R181). -/
def FifoDev.lsr (d : FifoDev) : Byte :=
  lineStatusByte (d.tx.isEmpty && d.tsr.isNone) d.tx.isEmpty d.oe (!d.rx.isEmpty)

/-- The data-received condition: enabled and the receive queue at or above the trigger level (R190). -/
def FifoDev.pending (d : FifoDev) : Bool := rxIrqEnabled d.ier && decide (triggerBytes d.trig ≤ d.rx.length)

/-- The interrupt output (R191). -/
def FifoDev.irq (d : FifoDev) : Bool := out2Of d.mcr && d.pending

/-- WR_FIFO_CONTROL (R183). -/
def FifoDev.writeFcr (v : Byte) (d : FifoDev) : FifoDev :=
  let toggled := fcrEnable v != d.fifoEn
  { d with
    rx := if toggled || fcrClearRx v then [] else d.rx
    tx := if toggled || fcrClearTx v then [] else d.tx
    fifoEn := fcrEnable v
    trig := if fcrEnable v then fcrTrigger v else .one }

/-- WR_DATA: the byte is queued, or dropped when the queue is full (R184). -/
def FifoDev.writeData (depth : Nat) (v : Byte) (d : FifoDev) : FifoDev :=
  if d.tx.length < d.cap depth then { d with tx := d.tx ++ [v] } else d

/-- The writes (R183, R184, R186, R187, R188, R189). -/
def FifoDev.write (depth : Nat) (r : WriteReg) (v : Byte) (d : FifoDev) : FifoDev :=
  match r with
  | .data => d.writeData depth v
  | .divisorLsb => { d with dll := v }
  | .divisorMsb => { d with dlm := v }
  | .irqEnable => { d with ier := v &&& 0x0F#8 }
  | .fifoControl => d.writeFcr v
  | .lineControl => { d with lcr := v }
  | .modemControl => { d with mcr := v &&& 0x1F#8 }

/-- RD_DATA: the oldest byte, or the last one returned when there is none (R185). -/
def FifoDev.readData (d : FifoDev) : Byte × FifoDev :=
  match d.rx with
  | b :: r => (b, { d with rx := r, last := b })
  | [] => (d.last, d)

/-- The reads (R182, R185, R186, R187, R188, R189, R190). -/
def FifoDev.read (r : ReadReg) (d : FifoDev) : Byte × FifoDev :=
  match r with
  | .data => d.readData
  | .divisorLsb => (d.dll, d)
  | .divisorMsb => (d.dlm, d)
  | .irqEnable => (d.ier, d)
  | .irqId => (irqIdByte d.fifoEn d.pending, d)
  | .lineControl => (d.lcr, d)
  | .modemControl => (d.mcr, d)
  | .lineStatus => (d.lsr, { d with oe := false })
  | .offset6 => (0x00#8, d)
  | .offset7 => (0x00#8, d)

/-- RxArrive: the byte is queued, or lost with the overrun flag set when the queue is full (R192). -/
def FifoDev.rxArrive (depth : Nat) (b : Byte) (d : FifoDev) : FifoDev :=
  if d.rx.length < d.cap depth then { d with rx := d.rx ++ [b] } else { d with oe := true }

/-- TxLoad: the shifter, if free, takes the oldest byte (R192). -/
def FifoDev.txLoad (d : FifoDev) : FifoDev :=
  match d.tsr, d.tx with
  | none, v :: t => { d with tsr := some v, tx := t }
  | none, [] => d
  | some _, _ => d

/-- TxDone: the byte in the shifter leaves on the line (R192). -/
def FifoDev.txDone (d : FifoDev) : FifoDev :=
  match d.tsr with
  | some v => { d with lineOut := d.lineOut ++ [v], tsr := none }
  | none => d

/-- The device's own steps (R192). The test's actions on `DEV_REGFILE` are no steps of this device. -/
def FifoDev.env (depth : Nat) (e : EnvStep) (d : FifoDev) : FifoDev :=
  match e with
  | .rxArrive b => d.rxArrive depth b
  | .txLoad => d.txLoad
  | .txDone => d.txDone
  | .setThre | .clearThre | .setDr | .clearDr | .setData _ | .setSchedule _ _ => d

/-! ### The device behind the window -/

/-- `dlab(Dev)` (R140, R31). -/
def Device.dlab : Device → Bool
  | .abs d => dlabOf d.lcr
  | .regfile d => dlabOf d.lcr
  | .fifo d => dlabOf d.lcr

/-- `write(Dev, off, byte)` (R140), by the register reached, at draw `n`. -/
def Device.write (depth : Nat) (r : WriteReg) (v : Byte) (n : Nat) : Device → Device
  | .abs d => .abs (d.write r v n)
  | .regfile d => .regfile (d.write r v)
  | .fifo d => .fifo (d.write depth r v)

/-- `read(Dev, off, choice)` (R140), by the register reached, at draw `n`. The `choice` is the free byte of the draw. -/
def Device.read (r : ReadReg) (n : Nat) : Device → Byte × Device
  | .abs d => (Config.freeByte n, .abs (d.read r (Config.freeByte n) n))
  | .regfile d => ((d.read r).1, .regfile (d.read r).2)
  | .fifo d => ((d.read r).1, .fifo (d.read r).2)

/-- `env(Dev, Dev)` (R140). The test acts on `DEV_REGFILE` only between commands (R174). -/
def Device.env (depth : Nat) (betweenCommands : Bool) (e : EnvStep) : Device → Device
  | .abs d => .abs d.env
  | .regfile d => if betweenCommands then .regfile (d.env e) else .regfile d
  | .fifo d => .fifo (d.env depth e)

/-- `irq(Dev)` (R140, R174, R191, R206). -/
def Device.irq (choice : Bool) : Device → Bool
  | .abs d => d.irq choice
  | .regfile _ => false
  | .fifo d => d.irq

/-- The registers every device holds, under one name each. -/
def Device.dll : Device → Byte
  | .abs d => d.dll
  | .regfile d => d.dll
  | .fifo d => d.dll

def Device.dlm : Device → Byte
  | .abs d => d.dlm
  | .regfile d => d.dlm
  | .fifo d => d.dlm

def Device.ier : Device → Byte
  | .abs d => d.ier
  | .regfile d => d.ier
  | .fifo d => d.ier

def Device.lcr : Device → Byte
  | .abs d => d.lcr
  | .regfile d => d.lcr
  | .fifo d => d.lcr

def Device.mcr : Device → Byte
  | .abs d => d.mcr
  | .regfile d => d.mcr
  | .fifo d => d.mcr

/-- `{DIVISOR_MSB, DIVISOR_LSB}` (R33). -/
def Device.divisor (d : Device) : BitVec 16 := divisorOf d.dlm d.dll

end Sys2Proof.Machine
end

