-- ==== Sys2Proof/Machine/Ops.lean ====
section
/-! DEFINITION. The shared operations: sequencing, responding, raising a failure (the counterpart of taking an
exception, R200, R208), recording the trace, and one access to a device register (R66). -/

namespace Sys2Proof.Machine

/-- The three outcomes, with this machine's types. -/
abbrev Result := Host.Outcome State Fault Refusal

/-- Runs `k` on the next state; a fault or a refusal ends the step. -/
def andThen (o : Result) (k : State → Result) : Result :=
  match o with
  | .next s => k s
  | .fault r => .fault r
  | .refused r => .refused r

/-- `st <- n` (R20). -/
def goto (n : SeqState) (s : State) : State := { s with st := n }

/-- `respond(status, data)`: one response word at the response port (R73). -/
def respond (status : Status) (data : Byte) (s : State) : State := { s with rsp := s.rsp ++ [rspWord status data] }

/-- The last step of a command: respond and return to IDLE (R97). -/
def finish (status : Status) (data : Byte) (s : State) : State := goto .idle (respond status data s)

/-- `raise <Failure>`: `respond(<Failure code>, 0x00); st <- IDLE`. Nothing is saved and nothing else changes
(R200, R208). -/
def raise (f : Failure) (s : State) : State := finish (failureStatus f) 0x00#8 s

/-- A command presented while the controller is busy waits at the command port (R95). -/
def hold (w : Nat) (s : State) : State := { s with port := s.port ++ [w] }

/-- Appends an event to the bus trace (R67). -/
def record (e : BusEvent) (s : State) : State := { s with trace := s.trace ++ [e] }

/-- `dlab(Dev)` now (R77). -/
def State.dlab (s : State) : Bool := s.dev.dlab

/-- The device's interrupt output now; it has no consumer (R206, D22). -/
def State.irq (s : State) : Bool := s.dev.irq (Config.freeBit s.draws 0)

/-- One bus write absorbed by register `r`, seen on the bus at offset `off` (R66). -/
def deviceWrite (r : WriteReg) (off : Offset) (v : Byte) (s : State) : State :=
  record (.wr off v) { s with dev := s.dev.write s.params.fifoDepth r v s.draws, draws := s.draws + 1 }

/-- One bus read answered by register `r`, seen on the bus at offset `off`; the answer stands on `rdata`
(R66, R75). -/
def deviceRead (r : ReadReg) (off : Offset) (s : State) : State :=
  let answer := s.dev.read r s.draws
  record (.rd off answer.1) { s with dev := answer.2, rdata := answer.1, draws := s.draws + 1 }

/-- The premise a CREATE and every access of the controller carry: the window at `base` does not pass the top of the
address space (R51, D9) and is the device's (R59, D35). Where it fails the model refuses. -/
def underWindow (base : Nat) (k : State → Result) (s : State) : Result :=
  if windowPassesTop s.params.addrWidth base then .refused .windowWraps
  else if base = s.params.devBase then k s
  else .refused .windowNotDevice

end Sys2Proof.Machine
end

