-- ==== Sys2Proof/Machine/Window.lean ====
section
/-! DEFINITION. The twenty window accesses (43_register_access.md), one meaning each; the access a transaction word
makes under the DLAB of the moment; and the controller's bus primitives `RegRead` and `RegWrite` (R51, R66).

A meaning acts on the register its row names; that the row fits DLAB is the decoder's part (DESIGN CHOICE,
assumption 12). -/

namespace Sys2Proof.Machine

/-! ### Offset 0 -/

/-- WR_DATA (R141): the byte is handed to the device's transmit side. -/
def execWrData (v : Byte) (s : State) : Result := .next (deviceWrite .data offData v s)

/-- RD_DATA (R142): a received byte is answered and removed. -/
def execRdData (_lane : Byte) (s : State) : Result := .next (deviceRead .data offData s)

/-- WR_DIVISOR_LSB (R143): DIVISOR_LSB takes the byte; nothing is transmitted. -/
def execWrDivisorLsb (v : Byte) (s : State) : Result := .next (deviceWrite .divisorLsb offData v s)

/-- RD_DIVISOR_LSB (R144): no received byte is consumed. -/
def execRdDivisorLsb (_lane : Byte) (s : State) : Result := .next (deviceRead .divisorLsb offData s)

/-! ### Offset 1 -/

/-- WR_DIVISOR_MSB (R145): DIVISOR_MSB takes the byte; IRQ_ENABLE unchanged. -/
def execWrDivisorMsb (v : Byte) (s : State) : Result := .next (deviceWrite .divisorMsb offIer v s)

/-- RD_DIVISOR_MSB (R146). -/
def execRdDivisorMsb (_lane : Byte) (s : State) : Result := .next (deviceRead .divisorMsb offIer s)

/-- WR_IRQ_ENABLE (R147). -/
def execWrIrqEnable (v : Byte) (s : State) : Result := .next (deviceWrite .irqEnable offIer v s)

/-- RD_IRQ_ENABLE (R148). -/
def execRdIrqEnable (_lane : Byte) (s : State) : Result := .next (deviceRead .irqEnable offIer s)

/-! ### Offsets 2, 3, 4 -/

/-- WR_FIFO_CONTROL (R149). -/
def execWrFifoControl (v : Byte) (s : State) : Result := .next (deviceWrite .fifoControl offFcr v s)

/-- RD_IRQ_ID (R150): a read of offset 2 gives the interrupt identification. -/
def execRdIrqId (_lane : Byte) (s : State) : Result := .next (deviceRead .irqId offFcr s)

/-- WR_LINE_CONTROL (R151): LINE_CONTROL takes the byte, DLAB its bit 7, from the next access on. -/
def execWrLineControl (v : Byte) (s : State) : Result := .next (deviceWrite .lineControl offLcr v s)

/-- RD_LINE_CONTROL (R152). -/
def execRdLineControl (_lane : Byte) (s : State) : Result := .next (deviceRead .lineControl offLcr s)

/-- WR_MODEM_CONTROL (R153). -/
def execWrModemControl (v : Byte) (s : State) : Result := .next (deviceWrite .modemControl offMcr v s)

/-- RD_MODEM_CONTROL (R154). -/
def execRdModemControl (_lane : Byte) (s : State) : Result := .next (deviceRead .modemControl offMcr s)

/-! ### Offsets 5, 6, 7 -/

/-- RD_LINE_STATUS (R155): the status byte. -/
def execRdLineStatus (_lane : Byte) (s : State) : Result := .next (deviceRead .lineStatus offLsr s)

/-- WR_LINE_STATUS (R156): no effect is defined; "A model refuses it". -/
def execWrLineStatus (_v : Byte) (_s : State) : Result := .refused .writeLineStatus

/-- RD_OFFSET6 (R157): any value, nothing changed. -/
def execRdOffset6 (_lane : Byte) (s : State) : Result := .next (deviceRead .offset6 6#3 s)

/-- WR_OFFSET6 (R158): "a model refuses it". -/
def execWrOffset6 (_v : Byte) (_s : State) : Result := .refused .writeOffset6

/-- RD_OFFSET7 (R159): any value, nothing changed. -/
def execRdOffset7 (_lane : Byte) (s : State) : Result := .next (deviceRead .offset7 7#3 s)

/-- WR_OFFSET7 (R160): "a model refuses it". -/
def execWrOffset7 (_v : Byte) (_s : State) : Result := .refused .writeOffset7

/-! ### The access a transaction word makes (R77, R78) -/

/-- The access rule that applies to a write at an offset under the DLAB of the moment (R78). -/
def windowWrite (off : Offset) (v : Byte) (s : State) : Result :=
  match off.toNat with
  | 0 => if s.dlab then execWrDivisorLsb v s else execWrData v s
  | 1 => if s.dlab then execWrDivisorMsb v s else execWrIrqEnable v s
  | 2 => execWrFifoControl v s
  | 3 => execWrLineControl v s
  | 4 => execWrModemControl v s
  | 5 => execWrLineStatus v s
  | 6 => execWrOffset6 v s
  | _ => execWrOffset7 v s

/-- The access rule that applies to a read at an offset under the DLAB of the moment (R78). -/
def windowRead (off : Offset) (lane : Byte) (s : State) : Result :=
  match off.toNat with
  | 0 => if s.dlab then execRdDivisorLsb lane s else execRdData lane s
  | 1 => if s.dlab then execRdDivisorMsb lane s else execRdIrqEnable lane s
  | 2 => execRdIrqId lane s
  | 3 => execRdLineControl lane s
  | 4 => execRdModemControl lane s
  | 5 => execRdLineStatus lane s
  | 6 => execRdOffset6 lane s
  | _ => execRdOffset7 lane s

/-- The access of a transaction word (R76). -/
def windowAccess (x : XactWord) (s : State) : Result :=
  if xactRw x then windowWrite (xactOff x) (xactData x) s else windowRead (xactOff x) (xactData x) s

/-! ### The controller's bus primitives (R51, R59, R66) -/

/-- Sends a request of the controller to the device, under the premise on its window (R51, R59). -/
def issue (r : BusReq) (s : State) : Result :=
  underWindow s.base (windowAccess (reqXact s.params.addrWidth s.base r)) s

/-- `RegRead(off)`; the byte answered stands on `rdata` (R51). -/
def regRead (off : Offset) (s : State) : Result := issue (readReq s.params.addrWidth s.base off) s

/-- `RegWrite(off, v)` (R51). -/
def regWrite (off : Offset) (v : Byte) (s : State) : Result := issue (writeReq s.params.addrWidth s.base off v) s

end Sys2Proof.Machine
end

