-- ==== Sys2Proof/Machine/Init.lean ====
section
/-! DEFINITION. The initialisation sequencer: the eight register writes of CREATE (41_init_sequence.md). -/

namespace Sys2Proof.Machine

/-- A step of the sequence: one byte write, no read, then the next state (R100). -/
def initWrite (off : Offset) (v : Byte) (n : SeqState) (s : State) : Result :=
  andThen (regWrite off v s) fun t => .next (goto n t)

/-- INIT1 (R101): `W(1, 0x00)`; reaches IRQ_ENABLE, or DIVISOR_MSB when DLAB is 1 (R111). -/
def execInit1 (s : State) : Result := initWrite offIer ierOff .init2 s

/-- INIT2 (R102): `W(3, 0x80)`, sets DLAB. -/
def execInit2 (s : State) : Result := initWrite offLcr lcrDlab .init3a s

/-- INIT3A (R103): `W(0, 0x03)`, the divisor's low byte. -/
def execInit3a (s : State) : Result := initWrite offData dllInit .init3b s

/-- INIT3B (R104): `W(1, 0x00)`, the divisor's high byte. -/
def execInit3b (s : State) : Result := initWrite offIer dlmInit .init4 s

/-- INIT4 (R105): `W(3, 0x03)`, 8N1, clears DLAB. -/
def execInit4 (s : State) : Result := initWrite offLcr lcr8n1 .init5 s

/-- INIT5 (R106): `W(2, 0xC7)`, FIFOs enabled and cleared, trigger 14. -/
def execInit5 (s : State) : Result := initWrite offFcr fcrInit .init6 s

/-- INIT6 (R107): `W(4, 0x0B)`, OUT2, RTS, DTR. -/
def execInit6 (s : State) : Result := initWrite offMcr mcrInit .init7 s

/-- INIT7 (R108): `W(1, 0x01)`; `inited <- 1`, respond Ok, back to IDLE. -/
def execInit7 (s : State) : Result :=
  andThen (regWrite offIer ierRx s) fun t => .next (finish .ok 0x00#8 { t with inited := true })

end Sys2Proof.Machine
end

