-- ==== Sys2Proof/Machine/Polling.lean ====
section
/-! DEFINITION. The line-status polling unit and the transmit and receive paths (42_polling_unit.md). -/

namespace Sys2Proof.Machine

/-- One poll of the unit: read LINE_STATUS, count, test the mask (R121); then `hitSt` on a hit and `missSt` on a
miss. -/
def poll (mask : Byte) (hitSt missSt : SeqState) (s : State) : Result :=
  andThen (regRead offLsr s) fun t =>
    .next (goto (if hit mask t.rdata then hitSt else missSt) { t with cnt := cntNext t.params.budget t.cnt })

/-- A step of the unit: the budget test comes before the poll; exhausted, it raises the path's failure with no bus
access (R120, R123). -/
def pollStep (mask : Byte) (hitSt missSt : SeqState) (f : Failure) (s : State) : Result :=
  if s.cnt = s.params.budget then .next (raise f s) else poll mask hitSt missSt s

/-- TXPOLL (R124). -/
def execTxpoll (s : State) : Result := pollStep lsrThre .txwrite .txpoll .transmitTimeout s

/-- TXWRITE (R125): `W(0, val)`, respond Ok, back to IDLE. -/
def execTxwrite (s : State) : Result :=
  andThen (regWrite offData s.val s) fun t => .next (finish .ok 0x00#8 t)

/-- RXPOLL (R126). -/
def execRxpoll (s : State) : Result := pollStep lsrDr .rxread .rxpoll .receiveTimeout s

/-- RXREAD (R127): `R(0) -> d`, respond Ok with `d`, back to IDLE. -/
def execRxread (s : State) : Result :=
  andThen (regRead offData s) fun t => .next (finish .ok t.rdata t)

end Sys2Proof.Machine
end

