-- ==== Sys2Proof/Machine/Commands.lean ====
section
/-! DEFINITION. The host commands and the dispatch of IDLE (40_commands.md). A command is accepted only with
`st = IDLE` (R90); presented at any other time it waits at the command port (R95). -/

namespace Sys2Proof.Machine

/-- Accepts a command in IDLE and holds it otherwise (R90, R95). -/
def whenIdle (w : Nat) (accept : State → Result) (s : State) : Result :=
  if s.st = .idle then accept s else .next (hold w s)

/-- CREATE (R91): `base <- arg; inited <- 0; st <- INIT1`. The controller makes no check of the address (R60); that the
window at `arg` is the device's is the premise of the run, and the model refuses a CREATE without it (R51, R59, D9,
D35; assumption 5). -/
def execCreate (arg : Nat) (s : State) : Result :=
  whenIdle (cmdWord .create arg)
    (underWindow (createOperand arg)
      fun s => .next (goto .init1 { s with base := createOperand arg, inited := false })) s

/-- SIZE (R92): respond Ok with 8; nothing else changes. -/
def execSize (arg : Nat) (s : State) : Result :=
  whenIdle (cmdWord .size arg) (fun s => .next (finish .ok windowSize s)) s

/-- SEND (R93): NotCreated without a device (R96), otherwise `val <- arg[7:0]; cnt <- 0; st <- TXPOLL`. -/
def execSend (arg : Nat) (s : State) : Result :=
  whenIdle (cmdWord .send arg)
    (fun s =>
      if s.inited then .next (goto .txpoll { s with val := sendOperand arg, cnt := 0 })
      else .next (raise .notCreated s)) s

/-- RECV (R94): NotCreated without a device (R96), otherwise `cnt <- 0; st <- RXPOLL`. -/
def execRecv (arg : Nat) (s : State) : Result :=
  whenIdle (cmdWord .recv arg)
    (fun s =>
      if s.inited then .next (goto .rxpoll { s with cnt := 0 })
      else .next (raise .notCreated s)) s

/-- The command of a command word (R71). -/
def execCommand (w : Nat) (s : State) : Result :=
  match cmdOp w with
  | .create => execCreate (cmdArg s.params.addrWidth w) s
  | .size => execSize (cmdArg s.params.addrWidth w) s
  | .send => execSend (cmdArg s.params.addrWidth w) s
  | .recv => execRecv (cmdArg s.params.addrWidth w) s

/-- IDLE (R90): takes the oldest word at the command port and accepts it. With none offered the controller is
quiescent, not stuck (R98): the state stays as it is (DESIGN CHOICE, assumption 8). -/
def execIdle (s : State) : Result :=
  match s.port with
  | [] => .next s
  | w :: ws => execCommand w { s with port := ws }

end Sys2Proof.Machine
end

