-- ==== Sys2Proof/Machine/Agents.lean ====
section
/-! DEFINITION. The moves of the other agents (R7): the host at its two ports, the device's own steps, the reset input;
and what a foreign request at the window is. -/

namespace Sys2Proof.Machine

/-- The host offers a command word, which waits its turn at the port (R95). A word has `AW + 2` bits (R70); of a wider
number those are what is offered (DESIGN CHOICE, safe: assumption 1). -/
def hostOffer (w : Nat) (s : State) : State := hold (w % 2 ^ (s.params.addrWidth + 2)) s

/-- The host takes the oldest response (R7). With none pending the spec gives a take no meaning; here it changes nothing
(DESIGN CHOICE, safe: assumption 24). -/
def hostTake (s : State) : State := { s with rsp := s.rsp.tail }

/-- The device takes a step of its own (R140, R174, R192). It may be seen in later free values, so one is drawn. -/
def deviceStep (e : EnvStep) (s : State) : State :=
  { s with dev := s.dev.env s.params.fifoDepth (decide (s.st = .idle)) e, draws := s.draws + 1 }

/-- The reset input (R230): IDLE, not created, no response pending, a new trace (R67); `base`, `val` and `cnt` are left
unspecified, so each takes a free value; the device and the words waiting at the command port are not touched
(DESIGN CHOICE, assumption 9). -/
def controllerReset (s : State) : State :=
  { s with
    st := .idle
    inited := false
    rsp := []
    trace := []
    base := Config.freeAddr s.draws % 2 ^ s.params.addrWidth
    val := Config.freeByte s.draws
    cnt := Config.freeCount s.draws % 2 ^ cntWidth s.params.budget
    draws := s.draws + 1 }

/-- What a foreign request is at the window: a transaction, or the premise it breaks. Wider than a byte is refused
(R52); while the controller is busy it is unserialised use (R205 b, U6); outside the window there is no device (R59). -/
def foreignRequest (a : ForeignAccess) (s : State) : Except Refusal XactWord :=
  if a.size ≠ 1 then .error .wideAccess
  else if s.st ≠ .idle then .error .unserialisedAccess
  else if 8 ≤ addrSub s.params.addrWidth a.req.addr s.params.devBase then .error .addressNotDevice
  else .ok (reqXact s.params.addrWidth s.params.devBase a.req)

end Sys2Proof.Machine
end

