-- ==== Sys2Proof/Machine/Dispatch.lean ====
section
/-! DEFINITION. `exec`: one arm per constructor of `Instr`, each a direct call of its meaning. -/

namespace Sys2Proof.Machine

def exec (i : Instr) (s : State) : Host.Outcome State Fault Refusal :=
  match i with
  -- host commands
  | .create arg => Sys2Proof.Machine.execCreate arg s
  | .size arg => Sys2Proof.Machine.execSize arg s
  | .send arg => Sys2Proof.Machine.execSend arg s
  | .recv arg => Sys2Proof.Machine.execRecv arg s
  -- sequencer states
  | .idle => Sys2Proof.Machine.execIdle s
  | .init1 => Sys2Proof.Machine.execInit1 s
  | .init2 => Sys2Proof.Machine.execInit2 s
  | .init3a => Sys2Proof.Machine.execInit3a s
  | .init3b => Sys2Proof.Machine.execInit3b s
  | .init4 => Sys2Proof.Machine.execInit4 s
  | .init5 => Sys2Proof.Machine.execInit5 s
  | .init6 => Sys2Proof.Machine.execInit6 s
  | .init7 => Sys2Proof.Machine.execInit7 s
  | .txpoll => Sys2Proof.Machine.execTxpoll s
  | .txwrite => Sys2Proof.Machine.execTxwrite s
  | .rxpoll => Sys2Proof.Machine.execRxpoll s
  | .rxread => Sys2Proof.Machine.execRxread s
  -- window accesses
  | .wrData v => Sys2Proof.Machine.execWrData v s
  | .rdData lane => Sys2Proof.Machine.execRdData lane s
  | .wrDivisorLsb v => Sys2Proof.Machine.execWrDivisorLsb v s
  | .rdDivisorLsb lane => Sys2Proof.Machine.execRdDivisorLsb lane s
  | .wrDivisorMsb v => Sys2Proof.Machine.execWrDivisorMsb v s
  | .rdDivisorMsb lane => Sys2Proof.Machine.execRdDivisorMsb lane s
  | .wrIrqEnable v => Sys2Proof.Machine.execWrIrqEnable v s
  | .rdIrqEnable lane => Sys2Proof.Machine.execRdIrqEnable lane s
  | .wrFifoControl v => Sys2Proof.Machine.execWrFifoControl v s
  | .rdIrqId lane => Sys2Proof.Machine.execRdIrqId lane s
  | .wrLineControl v => Sys2Proof.Machine.execWrLineControl v s
  | .rdLineControl lane => Sys2Proof.Machine.execRdLineControl lane s
  | .wrModemControl v => Sys2Proof.Machine.execWrModemControl v s
  | .rdModemControl lane => Sys2Proof.Machine.execRdModemControl lane s
  | .rdLineStatus lane => Sys2Proof.Machine.execRdLineStatus lane s
  | .wrLineStatus v => Sys2Proof.Machine.execWrLineStatus v s
  | .rdOffset6 lane => Sys2Proof.Machine.execRdOffset6 lane s
  | .wrOffset6 v => Sys2Proof.Machine.execWrOffset6 v s
  | .rdOffset7 lane => Sys2Proof.Machine.execRdOffset7 lane s
  | .wrOffset7 v => Sys2Proof.Machine.execWrOffset7 v s

end Sys2Proof.Machine
end

