-- ==== Sys2Proof/Machine/Step.lean ====
section
/-! DEFINITION. One step of the whole machine, and how an opcode-table word is placed where the next step runs it. -/

namespace Sys2Proof.Machine

/-- The controller's step: the microprogram row `st` selects (R80). -/
def controllerStep (s : State) : Host.Outcome State Fault Refusal := exec s.st.instr s

/-- A foreign access: the row its transaction decodes to under the DLAB of the moment (R77, R78). -/
def foreignStep (a : ForeignAccess) (s : State) : Host.Outcome State Fault Refusal :=
  match foreignRequest a s with
  | .ok x => exec (decodeXact s.dlab x) s
  | .error why => .refused why

/-- One move: the next one in `moves` is made; with none left the controller moves (R7, R61). -/
def moveStep (s : State) : Host.Outcome State Fault Refusal :=
  match s.moves with
  | [] => controllerStep s
  | .controller :: rest => controllerStep { s with moves := rest }
  | .offer w :: rest => .next (hostOffer w { s with moves := rest })
  | .take :: rest => .next (hostTake { s with moves := rest })
  | .env e :: rest => .next (deviceStep e { s with moves := rest })
  | .reset :: rest => .next (controllerReset { s with moves := rest })

/-- One step: an agent's move. A foreign request placed at the window before the run is served first, once, and is then
gone; no step places another (R7, R213). -/
def step (s : State) : Host.Outcome State Fault Refusal :=
  match s.foreign with
  | none => moveStep s
  | some a => foreignStep a { s with foreign := none }

/-- Places a command word at the head of the command port of an idle controller whose turn it is. A CREATE is within the
premise of the run exactly when its operand is `DEV_BASE` (R59), which is open: it is the operand wherever a window
fits there (assumption 19). -/
def State.withCommand (s : State) (w : Nat) : State :=
  let arg := cmdArg s.params.addrWidth w
  { s with
    st := .idle
    port := w :: s.port
    moves := .controller :: s.moves
    foreign := none
    params := if cmdOp w = .create ∧ windowPassesTop s.params.addrWidth arg = false
      then { s.params with devBase := arg } else s.params }

/-- Places the controller in a sequencer state with its turn next. A state other than IDLE is entered only under an
accepted CREATE of the device's window, so `base` is the device's (assumption 19). -/
def State.withSeqState (s : State) (st : SeqState) : State :=
  { s with st := st, base := s.params.devBase, moves := .controller :: s.moves, foreign := none }

/-- Places a foreign request at the device's window, with the controller idle. -/
def State.withAccess (s : State) (x : XactWord) : State :=
  { s with
    st := .idle
    foreign := some {
      req := {
        write := xactRw x
        addr := effAddr s.params.addrWidth s.params.devBase (xactOff x)
        wdata := xactData x }
      size := 1 } }

/-- `s` with an opcode-table word placed so that the next step runs its instruction; a number that is no word of its
format leaves `s` as it is. -/
def State.withFetchWord (s : State) (nbits w : Nat) : State :=
  match tableFormat nbits w with
  | .cmd => if w < 2 ^ (s.params.addrWidth + 2) then s.withCommand w else s
  | .seq =>
      match seqStateOf w with
      | some st => s.withSeqState st
      | none => s
  | .xact => if w < 2 ^ 12 then s.withAccess (BitVec.ofNat _ w) else s

end Sys2Proof.Machine
end

