-- ==== Sys2Proof/Safety.lean ====
section
/-! DEFINITION. What counts as a safe state and a safe run, in the terms the statements use: the invariants of the
controller, its counter, its window and the device it has programmed. -/

namespace Sys2Proof.Machine

/-! ### Premises -/

/-- No other agent accesses the window: the named premise of claims about runs (R213, D23). -/
def noOtherMaster (s : State) : Prop := s.foreign = none

/-- An address is the device's and its window does not pass the top (R51, R59). -/
def windowAt (p : Params) (base : Nat) : Prop := base = p.devBase ∧ windowPassesTop p.addrWidth base = false

/-- `base` is the device's window (R51, R59). -/
def windowValid (s : State) : Prop := windowAt s.params s.base

/-- The parameters meet their constraints. -/
def paramsOk (s : State) : Prop := s.params.wellFormed = true

/-- The device can take a DATA byte: the abstract one has shown THRE, the transmit queue of `DEV_FIFO` is empty
(R141, R195 a); `DEV_REGFILE` always can (R171). -/
def transmitReady : Device → Prop
  | .abs d => d.thre = true
  | .regfile _ => True
  | .fifo d => d.tx = []

/-- The device has a DATA byte: the abstract one has shown DR, the receive queue of `DEV_FIFO` holds one (R142,
R195 b); `DEV_REGFILE` always has (R171). -/
def receiveReady : Device → Prop
  | .abs d => d.dr = true
  | .regfile _ => True
  | .fifo d => d.rx ≠ []

/-! ### Classes of sequencer states -/

/-- The states of the initialisation sequence (R100). -/
def initState : SeqState → Bool
  | .init1 | .init2 | .init3a | .init3b | .init4 | .init5 | .init6 | .init7 => true
  | .idle | .txpoll | .txwrite | .rxpoll | .rxread => false

/-- The states of a SEND or RECV in progress. -/
def transferState : SeqState → Bool
  | .txpoll | .txwrite | .rxpoll | .rxread => true
  | .idle | .init1 | .init2 | .init3a | .init3b | .init4 | .init5 | .init6 | .init7 => false

/-! ### Invariants -/

/-- The counter fits its width, and during a transfer it is at most `BUDGET` (R24, R129 b). -/
def counterOk (s : State) : Prop :=
  s.cnt < 2 ^ cntWidth s.params.budget ∧ (transferState s.st = true → s.cnt ≤ s.params.budget)

/-- `inited` is 1 during a transfer and 0 during the initialisation sequence (R22). -/
def initedOk (s : State) : Prop :=
  (transferState s.st = true → s.inited = true) ∧ (initState s.st = true → s.inited = false)

/-- The window is the device's while a CREATE is in progress and once one has completed (R51, R59). -/
def windowOk (s : State) : Prop :=
  (s.inited = true → windowValid s) ∧ (initState s.st = true → windowValid s)

/-- `base` has `AW` bits and a command word `AW + 2` (R3, R21, R70). -/
def widthsOk (s : State) : Prop :=
  s.base < 2 ^ s.params.addrWidth ∧ ∀ w ∈ s.port, w < 2 ^ (s.params.addrWidth + 2)

/-- FIFO_CONTROL has taken `0xC7`: FIFOs enabled, trigger 14 (R106). -/
def fifoProgrammed : Device → Prop
  | .abs d => d.fcr = fcrInit
  | .regfile d => d.fcr = fcrInit
  | .fifo d => d.fifoEn = true ∧ d.trig = .fourteen

/-- The divisor is 0x0003 (R104). -/
def divisorProgrammed (d : Device) : Prop := d.dll = dllInit ∧ d.dlm = dlmInit

/-- What the device holds after a completed CREATE (R42), `IRQ_ENABLE` included. -/
def deviceProgrammed (d : Device) : Prop :=
  divisorProgrammed d ∧ d.lcr = lcr8n1 ∧ fifoProgrammed d ∧ d.mcr = mcrInit ∧ d.ier = ierRx

/-- How far the initialisation has come in each state of the sequence (R101 to R108). -/
def programmedSoFar (st : SeqState) (d : Device) : Prop :=
  match st with
  | .idle | .init1 | .init2 | .txpoll | .txwrite | .rxpoll | .rxread => True
  | .init3a => d.lcr = lcrDlab
  | .init3b => d.lcr = lcrDlab ∧ d.dll = dllInit
  | .init4 => d.lcr = lcrDlab ∧ divisorProgrammed d
  | .init5 => d.lcr = lcr8n1 ∧ divisorProgrammed d
  | .init6 => d.lcr = lcr8n1 ∧ divisorProgrammed d ∧ fifoProgrammed d
  | .init7 => d.lcr = lcr8n1 ∧ divisorProgrammed d ∧ fifoProgrammed d ∧ d.mcr = mcrInit

/-- The device is programmed as far as the sequence has come, and wholly once a CREATE has completed (R42). -/
def programOk (s : State) : Prop :=
  programmedSoFar s.st s.dev ∧ (s.inited = true → deviceProgrammed s.dev)

/-- The queues of `DEV_FIFO` are within their capacity (R180). -/
def queuesOk (s : State) : Prop :=
  match s.dev with
  | .abs _ => True
  | .regfile _ => True
  | .fifo d => d.rx.length ≤ d.cap s.params.fifoDepth ∧ d.tx.length ≤ d.cap s.params.fifoDepth

/-- The handshake: TXWRITE finds the device able to take a byte and RXREAD finds one there (R195 a, b, R237, R238). -/
def handshakeOk (s : State) : Prop :=
  (s.st = .txwrite → transmitReady s.dev) ∧ (s.st = .rxread → receiveReady s.dev)

/-- The invariant of a run in which no other agent accesses the window. -/
structure RunInv (s : State) : Prop where
  params    : paramsOk s
  exclusive : noOtherMaster s
  widths    : widthsOk s
  counter   : counterOk s
  inited    : initedOk s
  window    : windowOk s
  program   : programOk s
  queues    : queuesOk s
  handshake : handshakeOk s

/-! ### The registers of a device, set by name -/

/-- `d` with DIVISOR_LSB set. -/
def Device.setDll (v : Byte) : Device → Device
  | .abs d => .abs { d with dll := v }
  | .regfile d => .regfile { d with dll := v }
  | .fifo d => .fifo { d with dll := v }

/-- `d` with DIVISOR_MSB set. -/
def Device.setDlm (v : Byte) : Device → Device
  | .abs d => .abs { d with dlm := v }
  | .regfile d => .regfile { d with dlm := v }
  | .fifo d => .fifo { d with dlm := v }

/-- `d` with IRQ_ENABLE set. -/
def Device.setIer (v : Byte) : Device → Device
  | .abs d => .abs { d with ier := v }
  | .regfile d => .regfile { d with ier := v }
  | .fifo d => .fifo { d with ier := v }

/-- `d` with LINE_CONTROL set. -/
def Device.setLcr (v : Byte) : Device → Device
  | .abs d => .abs { d with lcr := v }
  | .regfile d => .regfile { d with lcr := v }
  | .fifo d => .fifo { d with lcr := v }

/-- `d` with MODEM_CONTROL set. -/
def Device.setMcr (v : Byte) : Device → Device
  | .abs d => .abs { d with mcr := v }
  | .regfile d => .regfile { d with mcr := v }
  | .fifo d => .fifo { d with mcr := v }

/-- `d` after FIFO_CONTROL has taken 0xC7: FIFOs enabled and empty, trigger 14, no received byte pending (R149). -/
def Device.fifosStarted : Device → Device
  | .abs d => .abs { d with fcr := 0xC7#8, dr := false, rxEmpty := true }
  | .regfile d => .regfile { d with fcr := 0xC7#8 }
  | .fifo d => .fifo { d with rx := [], tx := [], fifoEn := true, trig := .fourteen }

/-! ### Progress -/

/-- `n` steps, ending at the first that answers no next state. -/
def runFor : Nat → State → Result
  | 0, s => .next s
  | n + 1, s => andThen (step s) (runFor n)

/-- How many controller steps a command in progress still takes at most (R91, R93, R94, R129 e). -/
def stepsLeft (s : State) : Nat :=
  match s.st with
  | .idle => 0
  | .init1 => 8
  | .init2 => 7
  | .init3a => 6
  | .init3b => 5
  | .init4 => 4
  | .init5 => 3
  | .init6 => 2
  | .init7 => 1
  | .txpoll => s.params.budget - s.cnt + 1
  | .txwrite => 1
  | .rxpoll => s.params.budget - s.cnt + 1
  | .rxread => 1

/-- The accesses the controller may ever make (R109, R161, part D of 95_test_vectors.md, claim 7): writes at offsets 0
to 4 and reads at offsets 0 and 5. -/
def controllerEvent : BusEvent → Bool
  | .wr off _ => decide (off.toNat ≤ 4)
  | .rd off _ => decide (off.toNat = 0) || decide (off.toNat = 5)

/-- The trace of the initialisation (R81, R100). -/
def initTrace : List BusEvent :=
  [.wr offIer ierOff, .wr offLcr lcrDlab, .wr offData dllInit, .wr offIer dlmInit,
   .wr offLcr lcr8n1, .wr offFcr fcrInit, .wr offMcr mcrInit, .wr offIer ierRx]

end Sys2Proof.Machine
end

