-- ==== Sys2Proof/Certificates/Slice0/Obligations.lean ====
section
/-! DEFINITION. The statements for the provers. Each docstring names the rules it formalises. `s` is every state, those
no run reaches included; where that matters the premise is an invariant, and the invariant has statements of its own. -/

open Sys2Proof Sys2Proof.Machine

/-! ## Encodings -/

/-- Decode and encode agree (R70 to R72, R76 to R80): for every `AW`, the word of every instruction, with every operand
of `AW` bits, decodes to it in its format, under every DLAB its row admits. -/
def Obligations.DecodeOfEncodeIsTheInstruction : Prop :=
  ∀ (aw : Nat) (i : Instr) (dlab : Bool), i.fitsWidth aw = true → i.fitsDlab dlab = true →
    decode aw i.format dlab (encode i) = .ok i

/-- Each word has one meaning: what decodes, encodes back to the same word; and the instruction is of the format and
the DLAB it was read under, its operand of `AW` bits (R70, R77, R85). -/
def Obligations.EncodeOfDecodeIsTheWord : Prop :=
  ∀ (aw : Nat) (f : Format) (dlab : Bool) (w : Nat) (i : Instr), decode aw f dlab w = .ok i →
    i.format = f ∧ i.fitsWidth aw = true ∧ i.fitsDlab dlab = true ∧ encode i = w

/-- A word that decodes matches exactly one row of the opcode table, and that row is the one of the instruction read: it
bears its mnemonic, its format, the DLAB it needs, and the word under its mask is its match (R78, R86). The values 13
to 15 of `st` match none and are refused by name (R79 b). -/
def Obligations.EveryWordMatchesExactlyItsRow : Prop :=
  (∀ (aw : Nat) (f : Format) (dlab : Bool) (w : Nat) (i : Instr), decode aw f dlab w = .ok i →
    ∃ row, matchingRows f dlab w = [row] ∧ row.mnemonic = i.mnemonic ∧ row.format = i.format ∧
      w &&& row.mask = row.pattern ∧ row.dlab = i.context) ∧
  (∀ (aw : Nat) (dlab : Bool) (w : Nat), 13 ≤ w → w < 16 →
    decode aw .seq dlab w = .error .seqReserved ∧ matchingRows .seq dlab w = [])

/-- Words written out in the spec decode to what they stand for (30_encoding.md R71, R80, R81; vectors B1, B3). -/
def Obligations.WordsOfTheSpecDecode : Prop :=
  decode 64 .cmd false 0x40000000 = .ok (.create 0x10000000) ∧
  decode 64 .cmd false 0x106 = .ok (.send 0x41) ∧
  decode 64 .cmd false 0x48D1 = .ok (.size 0x1234) ∧
  decode 64 .cmd false 0x3FF = .ok (.recv 0xFF) ∧
  decode 64 .seq false 0x8 = .ok .init7 ∧
  decode 64 .seq false 0xC = .ok .rxread ∧
  decode 64 .xact false 0x900 = .ok (.wrIrqEnable 0x00#8) ∧
  decode 64 .xact true 0x900 = .ok (.wrDivisorMsb 0x00#8) ∧
  decode 64 .xact false 0x841 = .ok (.wrData 0x41#8) ∧
  decode 64 .xact true 0x803 = .ok (.wrDivisorLsb 0x03#8) ∧
  decode 64 .xact true 0xB03 = .ok (.wrLineControl 0x03#8) ∧
  decode 64 .xact false 0xAC7 = .ok (.wrFifoControl 0xC7#8) ∧
  decode 64 .xact false 0xC0B = .ok (.wrModemControl 0x0B#8) ∧
  decode 64 .xact false 0x500 = .ok (.rdLineStatus 0x00#8)

/-- R77: the same word at offset 0 or 1 selects a different register according to DLAB; at offsets 2 to 7 DLAB is
ignored. The DLAB is the one the device holds when the access arrives: an access at `s` runs the row its word decodes
to under `s.dlab`, which is bit 7 of the LINE_CONTROL the device holds. -/
def Obligations.DlabSelectsTheRegister : Prop :=
  (∀ w : XactWord,
    ((xactOff w).toNat < 2 → decodeXact true w ≠ decodeXact false w ∧
      (decodeXact true w).context = some true ∧ (decodeXact false w).context = some false) ∧
    (2 ≤ (xactOff w).toNat → decodeXact true w = decodeXact false w ∧ (decodeXact true w).context = none)) ∧
  (∀ (s : State) (w : XactWord),
    windowAccess w s = exec (decodeXact s.dlab w) s ∧ s.dlab = s.dev.lcr.getLsbD 7)

/-- The controller's request for `off` is at `base + off` modulo `2^AW` and reaches the device as the transaction of
`off`, for every `AW` the block can have and every `base`, a wrapping one included (R3, R51, R66, R75, R76). -/
def Obligations.ControllerRequestReachesItsOffset : Prop :=
  ∀ (aw base : Nat) (off : Offset) (v : Byte), 4 ≤ aw →
    (writeReq aw base off v).addr = (base + off.toNat) % 2 ^ aw ∧
    (readReq aw base off).addr = (base + off.toNat) % 2 ^ aw ∧
    (reqXact aw base (writeReq aw base off v)).toNat = 0x800 + off.toNat * 0x100 + v.toNat ∧
    (reqXact aw base (readReq aw base off)).toNat = off.toNat * 0x100

/-- A response word holds its status and its byte, and its value is `data * 8 + status`; the reserved codes 5 to 7 name
no status (R73, R74). -/
def Obligations.ResponseWordHoldsStatusAndByte : Prop :=
  (∀ (c : Status) (d : Byte),
    (rspWord c d).toNat = d.toNat * 8 + (statusCode c).toNat ∧
    rspStatus (rspWord c d) = some c ∧ rspData (rspWord c d) = d) ∧
  (∀ c : BitVec 3, 5 ≤ c.toNat → statusOf c = none)

/-! ## A step runs the decoded instruction -/

/-- On the controller's turn, with no foreign request at the window, a step is `exec` of the row `st` selects, at the
state without that move (R80). -/
def Obligations.StepRunsTheRowOfSt : Prop :=
  ∀ (s : State) (i : Instr), s.foreign = none → decode s.params.addrWidth .seq s.dlab s.st.code = .ok i →
    (s.moves = [] → step s = exec i s) ∧
    (∀ rest, s.moves = .controller :: rest → step s = exec i { s with moves := rest })

/-- IDLE runs the command the oldest word at the port decodes to, with the word consumed (R90); with none offered the
state stays as it is (R98; that the step is taken at all is the model's choice, log entry 8). -/
def Obligations.IdleRunsTheDecodedCommand : Prop :=
  ∀ (s : State),
    (s.port = [] → exec .idle s = .next s) ∧
    (∀ w ws i, s.port = w :: ws → decode s.params.addrWidth .cmd s.dlab w = .ok i →
      exec .idle s = exec i { s with port := ws })

/-- The dispatch of IDLE (R90): the oldest word is consumed and accepted, by its `op`; nothing else changes. A CREATE of
an address that is not the device's, or whose window wraps, is refused (R51, R59; log entry 5). -/
def Obligations.IdleAcceptsTheOldestCommand : Prop :=
  ∀ (s : State) (w : Nat) (ws : List Nat), s.st = .idle → s.port = w :: ws →
    (w % 4 = 0 →
      (2 ^ s.params.addrWidth ≤ w / 4 % 2 ^ s.params.addrWidth + 7 → exec .idle s = .refused .windowWraps) ∧
      (w / 4 % 2 ^ s.params.addrWidth + 7 < 2 ^ s.params.addrWidth →
        (w / 4 % 2 ^ s.params.addrWidth = s.params.devBase → exec .idle s = .next { s with
          port := ws, base := w / 4 % 2 ^ s.params.addrWidth, inited := false, st := .init1 }) ∧
        (w / 4 % 2 ^ s.params.addrWidth ≠ s.params.devBase → exec .idle s = .refused .windowNotDevice))) ∧
    (w % 4 = 1 → exec .idle s = .next { s with port := ws, rsp := s.rsp ++ [0x040#11] }) ∧
    (w % 4 = 2 → s.inited = true → exec .idle s = .next { s with
      port := ws, val := BitVec.ofNat 8 (w / 4 % 2 ^ s.params.addrWidth), cnt := 0, st := .txpoll }) ∧
    (w % 4 = 3 → s.inited = true → exec .idle s = .next { s with port := ws, cnt := 0, st := .rxpoll }) ∧
    (2 ≤ w % 4 → s.inited = false → exec .idle s = .next { s with port := ws, rsp := s.rsp ++ [0x004#11] })

/-- A byte-wide foreign request that stands at the device's window, with the controller idle, runs the row its
transaction decodes to under the DLAB the device holds, and is then gone (R77, R78). No agent has a move that places one
(R7, D23): this is how a window access by itself reaches a step, as one placed before the run (log entry 10). -/
def Obligations.OtherMasterRunsTheDecodedAccess : Prop :=
  ∀ (s : State) (write : Bool) (off : Offset) (v : Byte) (i : Instr), 4 ≤ s.params.addrWidth →
    s.foreign = some {
      req := { write := write, addr := (s.params.devBase + off.toNat) % 2 ^ s.params.addrWidth, wdata := v }, size := 1 } →
    s.st = .idle →
    decode s.params.addrWidth .xact s.dlab (xactWord write off v).toNat = .ok i →
    step s = exec i { s with foreign := none }

/-! ## Host commands -/

/-- A CREATE of the device's window, accepted in IDLE, stores the whole operand, clears `inited` and enters INIT1; it
makes no bus access and changes nothing else (R90, R91, R21). The controller checks nothing (R60): a CREATE of any
other address breaks the premise of the run, and the model refuses it, by one of two names (R51, D9; R59, D35). That
the refusal falls in the accepting step is the model's reading, log entry 5. -/
def Obligations.CreateIsAccepted : Prop :=
  ∀ (s : State) (arg : Nat), s.st = .idle →
    (2 ^ s.params.addrWidth ≤ arg + 7 → exec (.create arg) s = .refused .windowWraps) ∧
    (arg + 7 < 2 ^ s.params.addrWidth →
      (arg = s.params.devBase → exec (.create arg) s = .next { s with base := arg, inited := false, st := .init1 }) ∧
      (arg ≠ s.params.devBase → exec (.create arg) s = .refused .windowNotDevice))

/-- R92: every command word with `op` = 0b01 answers 8 in the accepting step (word 0x040), whatever `arg`, created or
not; no bus access is made and no other state changes. -/
def Obligations.SizeAnswersEight : Prop :=
  (∀ aw w : Nat, w % 4 = 1 → decodeCmd aw w = .size (w / 4 % 2 ^ aw)) ∧
  (∀ (s : State) (arg : Nat), s.st = .idle → exec (.size arg) s = .next { s with rsp := s.rsp ++ [0x040#11] })

/-- A SEND accepted on a created device latches `arg[7:0]`, clears the counter and enters TXPOLL; a RECV clears the
counter and enters RXPOLL and leaves `val` alone (R90, R93, R94). -/
def Obligations.SendAndRecvAreAccepted : Prop :=
  ∀ (s : State) (arg : Nat), s.st = .idle → s.inited = true →
    exec (.send arg) s = .next { s with val := BitVec.ofNat 8 arg, cnt := 0, st := .txpoll } ∧
    exec (.recv arg) s = .next { s with cnt := 0, st := .rxpoll }

/-- A SEND or RECV accepted before any CREATE answers NotCreated (word 0x004) in the accepting step, with no bus access
and `val` and `cnt` unchanged (R96, the spec's own decision D6). -/
def Obligations.UseBeforeCreateAnswersNotCreated : Prop :=
  ∀ (s : State) (arg : Nat), s.st = .idle → s.inited = false →
    exec (.send arg) s = .next { s with rsp := s.rsp ++ [0x004#11] } ∧
    exec (.recv arg) s = .next { s with rsp := s.rsp ++ [0x004#11] }

/-- While the controller is busy a command presented to it only waits at the port (R95, the spec's own decision D5),
behind those already there (the model's reading, DEDUCED, log entry 11: no step presents one to a busy controller); and
no step of a busy controller takes a word from the port. -/
def Obligations.BusyControllerHoldsCommands : Prop :=
  (∀ (s : State) (w : Nat), s.st ≠ .idle → w < 2 ^ (s.params.addrWidth + 2) →
    exec (decodeCmd s.params.addrWidth w) s = .next { s with port := s.port ++ [w] }) ∧
  (∀ (s t : State), s.st ≠ .idle → controllerStep s = .next t → t.port = s.port)

/-! ## The initialisation sequence -/

/-- Each row of the sequence performs the transaction word the table gives it (R80, R81) under the DLAB of the moment
and then moves on; the last one sets `inited`, answers Ok and returns to IDLE (R100 to R108). -/
def Obligations.InitRowsPerformTheirTransactions : Prop :=
  ∀ s : State, windowValid s →
    (∀ row ∈ [(Instr.init1, 0x900#12, SeqState.init2), (.init2, 0xB80#12, .init3a), (.init3a, 0x803#12, .init3b),
        (.init3b, 0x900#12, .init4), (.init4, 0xB03#12, .init5), (.init5, 0xAC7#12, .init6), (.init6, 0xC0B#12, .init7)],
      ∃ t, exec (decodeXact s.dlab row.2.1) s = .next t ∧ exec row.1 s = .next { t with st := row.2.2 }) ∧
    (∃ t, exec (decodeXact s.dlab 0x901#12) s = .next t ∧
      exec .init7 s = .next { t with inited := true, rsp := t.rsp ++ [0x000#11], st := .idle })

/-- What each row does to the whole machine, whichever device it is (R101 to R108, R111): one register of the device, the
trace, the draw and `st`, and nothing else; INIT7 sets `inited` and answers as well. INIT1 reaches IRQ_ENABLE or, with
DLAB 1, DIVISOR_MSB (R111). INIT3A, INIT3B and INIT7 are given under the DLAB that INIT2 and INIT4 leave, the only one a
run reaches them under (R110); InitRowsPerformTheirTransactions gives them under the other. -/
def Obligations.InitRowsProgramTheDevice : Prop :=
  ∀ s : State, windowValid s →
    (s.dlab = false → exec .init1 s = .next { s with
      st := .init2, trace := s.trace ++ [.wr 1 0x00#8], draws := s.draws + 1, dev := s.dev.setIer 0x00#8 }) ∧
    (s.dlab = true → exec .init1 s = .next { s with
      st := .init2, trace := s.trace ++ [.wr 1 0x00#8], draws := s.draws + 1, dev := s.dev.setDlm 0x00#8 }) ∧
    exec .init2 s = .next { s with
      st := .init3a, trace := s.trace ++ [.wr 3 0x80#8], draws := s.draws + 1, dev := s.dev.setLcr 0x80#8 } ∧
    (s.dlab = true → exec .init3a s = .next { s with
      st := .init3b, trace := s.trace ++ [.wr 0 0x03#8], draws := s.draws + 1, dev := s.dev.setDll 0x03#8 }) ∧
    (s.dlab = true → exec .init3b s = .next { s with
      st := .init4, trace := s.trace ++ [.wr 1 0x00#8], draws := s.draws + 1, dev := s.dev.setDlm 0x00#8 }) ∧
    exec .init4 s = .next { s with
      st := .init5, trace := s.trace ++ [.wr 3 0x03#8], draws := s.draws + 1, dev := s.dev.setLcr 0x03#8 } ∧
    exec .init5 s = .next { s with
      st := .init6, trace := s.trace ++ [.wr 2 0xC7#8], draws := s.draws + 1, dev := s.dev.fifosStarted } ∧
    exec .init6 s = .next { s with
      st := .init7, trace := s.trace ++ [.wr 4 0x0B#8], draws := s.draws + 1, dev := s.dev.setMcr 0x0B#8 } ∧
    (s.dlab = false → exec .init7 s = .next { s with
      st := .idle, inited := true, rsp := s.rsp ++ [0x000#11],
      trace := s.trace ++ [.wr 1 0x01#8], draws := s.draws + 1, dev := s.dev.setIer 0x01#8 }) ∧
    (s.dev.setLcr 0x80#8).dlab = true ∧ (s.dev.setLcr 0x03#8).dlab = false

/-- A row that accesses the bus stops, by one of two names, when `base` is not the device's window (R51, R59, U1, U15).
A run never comes there, since a CREATE of such an address is refused (CreateIsAccepted) and `windowOk` is kept; that
the access checks its premise as well is the model's choice (log entry 5). -/
def Obligations.AccessOutsideTheWindowStops : Prop :=
  ∀ s : State,
    (∀ i ∈ [Instr.init1, .init2, .init3a, .init3b, .init4, .init5, .init6, .init7, .txwrite, .rxread],
      (2 ^ s.params.addrWidth ≤ s.base + 7 → exec i s = .refused .windowWraps) ∧
      (s.base + 7 < 2 ^ s.params.addrWidth → s.base ≠ s.params.devBase → exec i s = .refused .windowNotDevice)) ∧
    (s.cnt ≠ s.params.budget → ∀ i ∈ [Instr.txpoll, .rxpoll],
      (2 ^ s.params.addrWidth ≤ s.base + 7 → exec i s = .refused .windowWraps) ∧
      (s.base + 7 < 2 ^ s.params.addrWidth → s.base ≠ s.params.devBase → exec i s = .refused .windowNotDevice))

/-! ## The polling unit and the data paths -/

/-- R124. TXPOLL is entered from IDLE with `cnt` = 0 and `val` loaded, or from itself after a miss. With `cnt` =
`BUDGET` it answers TransmitTimeout and returns to IDLE, with no bus access. Before that it reads LINE_STATUS, once,
counts it, and goes on by bit 5 of the byte read. -/
def Obligations.TxpollPollsOrGivesUp : Prop :=
  (∀ s t : State, controllerStep s = .next t → t.st = .txpoll →
    (s.st = .idle ∧ t.cnt = 0 ∧ ∃ w ws, s.port = w :: ws ∧ w % 4 = 2 ∧
      t.val = BitVec.ofNat 8 (w / 4 % 2 ^ s.params.addrWidth)) ∨
    (s.st = .txpoll ∧ t.rdata &&& 0x20#8 = 0#8)) ∧
  (∀ s : State, s.cnt = s.params.budget →
    exec .txpoll s = .next { s with rsp := s.rsp ++ [0x001#11], st := .idle }) ∧
  (∀ s : State, s.cnt < s.params.budget → windowValid s → ∃ t,
    exec (.rdLineStatus 0x00#8) s = .next t ∧ t.trace = s.trace ++ [.rd 5 t.rdata] ∧
    exec .txpoll s = .next { t with
      cnt := s.cnt + 1, st := if t.rdata &&& 0x20#8 ≠ 0#8 then .txwrite else .txpoll })

/-- R125. TXWRITE is entered only from a TXPOLL hit, which is the access before its own. It makes one write of `val` to
offset 0, which reaches DATA since DLAB is 0, answers Ok and returns to IDLE. -/
def Obligations.TxwriteWritesValOnce : Prop :=
  (∀ s t : State, controllerStep s = .next t → t.st = .txwrite →
    s.st = .txpoll ∧ t.rdata &&& 0x20#8 ≠ 0#8 ∧ t.trace = s.trace ++ [.rd 5 t.rdata]) ∧
  (∀ s : State, windowValid s → ∃ t,
    exec (decodeXact s.dlab (xactWord true 0#3 s.val)) s = .next t ∧ t.trace = s.trace ++ [.wr 0 s.val] ∧
    exec .txwrite s = .next { t with rsp := s.rsp ++ [0x000#11], st := .idle } ∧
    (s.dlab = false → decodeXact s.dlab (xactWord true 0#3 s.val) = .wrData s.val))

/-- R126. RXPOLL is TXPOLL with the other mask and the other failure, entered from IDLE with `cnt` = 0 or from itself
after a miss. -/
def Obligations.RxpollPollsOrGivesUp : Prop :=
  (∀ s t : State, controllerStep s = .next t → t.st = .rxpoll →
    (s.st = .idle ∧ t.cnt = 0 ∧ ∃ w ws, s.port = w :: ws ∧ w % 4 = 3) ∨
    (s.st = .rxpoll ∧ t.rdata &&& 0x01#8 = 0#8)) ∧
  (∀ s : State, s.cnt = s.params.budget →
    exec .rxpoll s = .next { s with rsp := s.rsp ++ [0x002#11], st := .idle }) ∧
  (∀ s : State, s.cnt < s.params.budget → windowValid s → ∃ t,
    exec (.rdLineStatus 0x00#8) s = .next t ∧ t.trace = s.trace ++ [.rd 5 t.rdata] ∧
    exec .rxpoll s = .next { t with
      cnt := s.cnt + 1, st := if t.rdata &&& 0x01#8 ≠ 0#8 then .rxread else .rxpoll })

/-- R127. RXREAD is entered only from an RXPOLL hit. It reads offset 0 once, which reaches DATA since DLAB is 0, and
answers Ok with the byte read, whatever it is; on `DEV_FIFO` (the spec's own choice, D19) that is the oldest byte, and it
is consumed. -/
def Obligations.RxreadAnswersTheByteRead : Prop :=
  (∀ s t : State, controllerStep s = .next t → t.st = .rxread →
    s.st = .rxpoll ∧ t.rdata &&& 0x01#8 ≠ 0#8) ∧
  (∀ s : State, windowValid s → ∃ t,
    exec (decodeXact s.dlab (xactWord false 0#3 0x00#8)) s = .next t ∧ t.trace = s.trace ++ [.rd 0 t.rdata] ∧
    exec .rxread s = .next { t with rsp := s.rsp ++ [BitVec.ofNat 11 (t.rdata.toNat * 8)], st := .idle } ∧
    (s.dlab = false → decodeXact s.dlab (xactWord false 0#3 0x00#8) = .rdData 0x00#8 ∧
      ∀ d x xs, s.dev = .fifo d → d.rx = x :: xs → t.rdata = x ∧ t.dev = .fifo { d with rx := xs, last := x }))

/-- The poll's test is the one masked bit; the other seven take no part (R122). -/
def Obligations.PollTestsOneBit : Prop :=
  ∀ a b : Byte,
    hit 0x20#8 a = a.getLsbD 5 ∧ hit 0x01#8 a = a.getLsbD 0 ∧
    (a.getLsbD 5 = b.getLsbD 5 → hit 0x20#8 a = hit 0x20#8 b) ∧
    (a.getLsbD 0 = b.getLsbD 0 → hit 0x01#8 a = hit 0x01#8 b)

/-- `CNTW` is the least number of bits, at least one, that `BUDGET` fits in; so counting a poll below `BUDGET` is
`cnt + 1` and never wraps (R4, R129 b). -/
def Obligations.CounterNeverWraps : Prop :=
  ∀ b c : Nat,
    1 ≤ cntWidth b ∧ b < 2 ^ cntWidth b ∧ (2 ≤ cntWidth b → 2 ^ (cntWidth b - 1) ≤ b) ∧
    (c < b → cntNext b c = c + 1) ∧ cntNext b c < 2 ^ cntWidth b

/-! ## Window accesses -/

/-- The writes of the divisor bytes, IRQ_ENABLE, LINE_CONTROL and MODEM_CONTROL put the byte in the register they reach
and change nothing else but the trace and the draw (R143, R145, R147, R151, R153); `DEV_FIFO` keeps the low four bits
of IRQ_ENABLE and the low five of MODEM_CONTROL (the spec's own choice, D19). The rows of the divisor bytes and of
IRQ_ENABLE act on their register whatever DLAB is; the decoder sees to DLAB (log entry 12). -/
def Obligations.ControlWritesStoreTheByte : Prop :=
  ∀ (s : State) (v : Byte),
    exec (.wrDivisorLsb v) s = .next { s with
      trace := s.trace ++ [.wr 0 v]
      draws := s.draws + 1
      dev := match s.dev with
        | .abs d => .abs { d with dll := v }
        | .regfile d => .regfile { d with dll := v }
        | .fifo d => .fifo { d with dll := v } } ∧
    exec (.wrDivisorMsb v) s = .next { s with
      trace := s.trace ++ [.wr 1 v]
      draws := s.draws + 1
      dev := match s.dev with
        | .abs d => .abs { d with dlm := v }
        | .regfile d => .regfile { d with dlm := v }
        | .fifo d => .fifo { d with dlm := v } } ∧
    exec (.wrIrqEnable v) s = .next { s with
      trace := s.trace ++ [.wr 1 v]
      draws := s.draws + 1
      dev := match s.dev with
        | .abs d => .abs { d with ier := v }
        | .regfile d => .regfile { d with ier := v }
        | .fifo d => .fifo { d with ier := v &&& 0x0F#8 } } ∧
    exec (.wrLineControl v) s = .next { s with
      trace := s.trace ++ [.wr 3 v]
      draws := s.draws + 1
      dev := match s.dev with
        | .abs d => .abs { d with lcr := v }
        | .regfile d => .regfile { d with lcr := v }
        | .fifo d => .fifo { d with lcr := v } } ∧
    exec (.wrModemControl v) s = .next { s with
      trace := s.trace ++ [.wr 4 v]
      draws := s.draws + 1
      dev := match s.dev with
        | .abs d => .abs { d with mcr := v }
        | .regfile d => .regfile { d with mcr := v }
        | .fifo d => .fifo { d with mcr := v &&& 0x1F#8 } }

/-- DLAB is bit 7 of the byte written to LINE_CONTROL, from the next access on; no other write and no read changes it
(R31, R151). Left out is what U2 and U3 leave unspecified: a DATA access of the abstract device that is not in order
(log entry 16). The banked rows are given whatever DLAB is; the decoder sees to DLAB (log entry 12). -/
def Obligations.OnlyLineControlChangesDlab : Prop :=
  (∀ (s t : State) (v : Byte), exec (.wrLineControl v) s = .next t → t.dlab = v.getLsbD 7) ∧
  (∀ (s t : State) (i : Instr), i.format = .xact → (∀ v, i ≠ .wrLineControl v) →
    (∀ d, s.dev = .abs d → (∀ v, i = .wrData v → d.thre = true) ∧ (∀ lane, i = .rdData lane → d.dr = true)) →
    exec i s = .next t → t.dlab = s.dlab)

/-- WR_DATA hands the byte to the transmit side and changes nothing else but the trace and the draw (R141): the abstract
device holds it, and with THRE not shown may instead be in any state at all (U3; the model's form of both is log entry
16); `DEV_REGFILE` stores it (R172); `DEV_FIFO` queues it, or drops it when the queue is full (R184, the spec's own
choice, D19). The row acts on DATA whatever DLAB is; the decoder sees to DLAB (log entry 12). -/
def Obligations.WrDataHandsTheByteOver : Prop :=
  ∀ (s : State) (v : Byte), ∃ dev', exec (.wrData v) s = .next { s with
      trace := s.trace ++ [.wr 0 v], draws := s.draws + 1, dev := dev' } ∧
    (∀ d, s.dev = .abs d →
      (d.thre = true → dev' = .abs { d with thr := v, thre := false }) ∧
      (d.thre = false →
        dev' = .abs { d with thr := v, thre := false } ∨ dev' = .abs (AbsDev.unspecified s.draws))) ∧
    (∀ d, s.dev = .regfile d → dev' = .regfile { d with data := v }) ∧
    (∀ d, s.dev = .fifo d → dev' =
      .fifo (if d.tx.length < (if d.fifoEn then s.params.fifoDepth else 1) then { d with tx := d.tx ++ [v] } else d))

/-- WR_FIFO_CONTROL (R149): the abstract device and `DEV_REGFILE` store the byte; with its bit 1 set (R35) no received
byte is pending in the abstract device, and with it clear the receive side is kept, also when the enable changes (the
model's choice, log entry 16); `DEV_FIFO` follows R183 (the spec's own choice, D19), and for 0xC7 both queues
are empty, the FIFOs enabled and the trigger 14. After 0xC7 neither signals an interrupt (the abstract device: log
entry 15). -/
def Obligations.WrFifoControlSetsUpTheQueues : Prop :=
  ∀ (s : State) (v : Byte), ∃ dev', exec (.wrFifoControl v) s =
      .next { s with trace := s.trace ++ [.wr 2 v], draws := s.draws + 1, dev := dev' } ∧
    (v = 0xC7#8 → ∀ choice, dev'.irq choice = false) ∧
    (∀ d, s.dev = .abs d → dev' = .abs (
      if v.getLsbD 1 = true then { d with fcr := v, dr := false, rxEmpty := true } else { d with fcr := v })) ∧
    (∀ d, s.dev = .regfile d → dev' = .regfile { d with fcr := v }) ∧
    (∀ d, s.dev = .fifo d → ∃ d', dev' = .fifo d' ∧
      d' = { d with rx := d'.rx, tx := d'.tx, fifoEn := d'.fifoEn, trig := d'.trig } ∧
      d'.rx = (if v.getLsbD 0 ≠ d.fifoEn ∨ v.getLsbD 1 = true then [] else d.rx) ∧
      d'.tx = (if v.getLsbD 0 ≠ d.fifoEn ∨ v.getLsbD 2 = true then [] else d.tx) ∧
      d'.fifoEn = v.getLsbD 0 ∧
      d'.trig = (if v.getLsbD 0 then
        (if v.toNat / 64 = 0 then .one else if v.toNat / 64 = 1 then .four
         else if v.toNat / 64 = 2 then .eight else .fourteen) else .one) ∧
      (v = 0xC7#8 → d'.rx = [] ∧ d'.tx = [] ∧ d'.fifoEn = true ∧ triggerBytes d'.trig = 14))

/-- The reads of the control registers, of offset 2 and of offsets 6 and 7 leave the device as it is; the answer stands
on `rdata` and in the trace (R144, R146, R148, R150, R152, R154, R157, R159). The abstract device answers any value;
the reference devices answer what D16 to D19 choose: the stored byte, the interrupt identification of `DEV_FIFO`, 0x00
at offsets 6 and 7. The rows of the divisor bytes and of IRQ_ENABLE read their register whatever DLAB is; the decoder
sees to DLAB (log entry 12). -/
def Obligations.ControlReadsKeepTheDevice : Prop :=
  ∀ (s : State) (lane : Byte),
    (∃ b, exec (.rdDivisorLsb lane) s =
        .next { s with rdata := b, trace := s.trace ++ [.rd 0 b], draws := s.draws + 1 } ∧
      (∀ d, s.dev = .regfile d → b = d.dll) ∧ (∀ d, s.dev = .fifo d → b = d.dll)) ∧
    (∃ b, exec (.rdDivisorMsb lane) s =
        .next { s with rdata := b, trace := s.trace ++ [.rd 1 b], draws := s.draws + 1 } ∧
      (∀ d, s.dev = .regfile d → b = d.dlm) ∧ (∀ d, s.dev = .fifo d → b = d.dlm)) ∧
    (∃ b, exec (.rdIrqEnable lane) s =
        .next { s with rdata := b, trace := s.trace ++ [.rd 1 b], draws := s.draws + 1 } ∧
      (∀ d, s.dev = .regfile d → b = d.ier) ∧ (∀ d, s.dev = .fifo d → b = d.ier)) ∧
    (∃ b, exec (.rdIrqId lane) s =
        .next { s with rdata := b, trace := s.trace ++ [.rd 2 b], draws := s.draws + 1 } ∧
      (∀ d, s.dev = .regfile d → b = d.fcr) ∧
      (∀ d, s.dev = .fifo d → b = (if d.fifoEn then 0xC0#8 else 0x00#8) |||
        (if d.ier.getLsbD 0 = true ∧ triggerBytes d.trig ≤ d.rx.length then 0x04#8 else 0x01#8))) ∧
    (∃ b, exec (.rdLineControl lane) s =
        .next { s with rdata := b, trace := s.trace ++ [.rd 3 b], draws := s.draws + 1 } ∧
      (∀ d, s.dev = .regfile d → b = d.lcr) ∧ (∀ d, s.dev = .fifo d → b = d.lcr)) ∧
    (∃ b, exec (.rdModemControl lane) s =
        .next { s with rdata := b, trace := s.trace ++ [.rd 4 b], draws := s.draws + 1 } ∧
      (∀ d, s.dev = .regfile d → b = d.mcr) ∧ (∀ d, s.dev = .fifo d → b = d.mcr)) ∧
    (∃ b, exec (.rdOffset6 lane) s =
        .next { s with rdata := b, trace := s.trace ++ [.rd 6 b], draws := s.draws + 1 } ∧
      (∀ d, s.dev = .regfile d → b = 0x00#8) ∧ (∀ d, s.dev = .fifo d → b = 0x00#8)) ∧
    (∃ b, exec (.rdOffset7 lane) s =
        .next { s with rdata := b, trace := s.trace ++ [.rd 7 b], draws := s.draws + 1 } ∧
      (∀ d, s.dev = .regfile d → b = 0x00#8) ∧ (∀ d, s.dev = .fifo d → b = 0x00#8))

/-- RD_LINE_STATUS answers the status byte (R155): any value from the abstract device, of which it changes nothing but
what is known of its readiness, bit 5 and bit 0 of the answer (log entry 16); the byte the test gave on `DEV_REGFILE`,
whose schedule moves on (R173, R174; log entry 22); the byte of R181 on `DEV_FIFO`, which forgets the overrun (R182).
Nothing of the controller changes but the answer, the trace and the draw. -/
def Obligations.RdLineStatusAnswersTheStatus : Prop :=
  ∀ (s : State) (lane : Byte), ∃ b dev', exec (.rdLineStatus lane) s =
      .next { s with rdata := b, trace := s.trace ++ [.rd 5 b], draws := s.draws + 1, dev := dev' } ∧
    (∀ d, s.dev = .abs d → dev' = .abs { d with
      thre := b.getLsbD 5, dr := b.getLsbD 0, rxEmpty := d.rxEmpty && !b.getLsbD 0 }) ∧
    (∀ d, s.dev = .regfile d → b = d.lsr ∧
      (d.later = [] → dev' = s.dev) ∧ (∀ x xs, d.later = x :: xs → dev' = .regfile { d with lsr := x, later := xs })) ∧
    (∀ d, s.dev = .fifo d → b = d.lsr ∧ dev' = .fifo { d with oe := false })

/-- RD_DATA answers a byte of the receive side (R142): any value from the abstract device, whose transmit side and
control registers are untouched, and which with DR not shown may instead be in any state at all (U2; the model's form
of both is log entry 16); the one cell of `DEV_REGFILE`, which a read does not consume (R171); the oldest byte of
`DEV_FIFO`, removed, or the last one answered when there is none (R185, the spec's own choice, D19). The row acts on
DATA whatever DLAB is; the decoder sees to DLAB (log entry 12). -/
def Obligations.RdDataAnswersAByte : Prop :=
  ∀ (s : State) (lane : Byte), ∃ b dev', exec (.rdData lane) s =
      .next { s with rdata := b, trace := s.trace ++ [.rd 0 b], draws := s.draws + 1, dev := dev' } ∧
    (∀ d, s.dev = .abs d →
      (d.dr = true → dev' = .abs { d with rbr := b, dr := false }) ∧
      (d.dr = false → dev' = .abs { d with rbr := b, dr := false } ∨ dev' = .abs (AbsDev.unspecified s.draws))) ∧
    (∀ d, s.dev = .regfile d → b = d.data ∧ dev' = s.dev) ∧
    (∀ d, s.dev = .fifo d →
      (d.rx = [] → b = d.last ∧ dev' = s.dev) ∧
      (∀ x xs, d.rx = x :: xs → b = x ∧ dev' = .fifo { d with rx := xs, last := x }))

/-- The three writes the document gives no meaning stop by name, on every device (R156, R158, R160). -/
def Obligations.WritesWithoutMeaningStop : Prop :=
  ∀ (s : State) (v : Byte),
    exec (.wrLineStatus v) s = .refused .writeLineStatus ∧
    exec (.wrOffset6 v) s = .refused .writeOffset6 ∧
    exec (.wrOffset7 v) s = .refused .writeOffset7

/-- R172: the writes of `DEV_REGFILE` by offset and DLAB; offsets 5, 6 and 7 are refused; no write changes `lsr`. -/
def Obligations.RegfileWritesByOffset : Prop :=
  ∀ (s : State) (d : RegFile) (off : Offset) (v : Byte), s.dev = .regfile d →
    (off.toNat < 5 → exec (decodeXact s.dlab (xactWord true off v)) s = .next { s with
      trace := s.trace ++ [.wr off v]
      draws := s.draws + 1
      dev := .regfile (
        if off = 0#3 then (if d.lcr.getLsbD 7 = false then { d with data := v } else { d with dll := v })
        else if off = 1#3 then (if d.lcr.getLsbD 7 = false then { d with ier := v } else { d with dlm := v })
        else if off = 2#3 then { d with fcr := v }
        else if off = 3#3 then { d with lcr := v }
        else { d with mcr := v }) }) ∧
    (5 ≤ off.toNat → ∃ r, exec (decodeXact s.dlab (xactWord true off v)) s = .refused r) ∧
    (∀ t d', exec (decodeXact s.dlab (xactWord true off v)) s = .next t → t.dev = .regfile d' → d'.lsr = d.lsr)

/-! ## The device's own behaviour -/

/-- The status byte of `DEV_FIFO`: DR says the receive queue holds a byte, THRE that the transmit queue is empty, bit 6
that the shifter is empty too, bit 1 the overrun; every other bit is 0 (R181, the spec's own choice, D19). -/
def Obligations.FifoStatusByte : Prop :=
  ∀ d : FifoDev,
    (d.lsr.getLsbD 0 = true ↔ d.rx ≠ []) ∧ d.lsr.getLsbD 1 = d.oe ∧ (d.lsr.getLsbD 5 = true ↔ d.tx = []) ∧
    (d.lsr.getLsbD 6 = true ↔ d.tx = [] ∧ d.tsr = none) ∧
    d.lsr &&& 0x9C#8 = 0x00#8 ∧
    d.lsr.toNat ∈ [0x00, 0x01, 0x02, 0x03, 0x20, 0x21, 0x22, 0x23, 0x60, 0x61, 0x62, 0x63]

/-- The steps of `DEV_FIFO`'s own (R192, the spec's own choice, D19): a byte arrives and is queued or lost with the
overrun set; the shifter loads; the shifter is done. A step that is not enabled, and a test's action, which is no step of
this device, changes nothing (log entry 14). Nothing of the controller changes. -/
def Obligations.FifoMovesByItself : Prop :=
  ∀ (s : State) (d : FifoDev) (rest : List Move) (e : EnvStep),
    s.foreign = none → s.dev = .fifo d → s.moves = .env e :: rest →
    ∃ d', step s = .next { s with moves := rest, draws := s.draws + 1, dev := .fifo d' } ∧
      (∀ b, e = .rxArrive b →
        d' = if d.rx.length < (if d.fifoEn then s.params.fifoDepth else 1) then { d with rx := d.rx ++ [b] }
             else { d with oe := true }) ∧
      (e = .txLoad → (∀ v t, d.tsr = none → d.tx = v :: t → d' = { d with tsr := some v, tx := t }) ∧
        (d.tsr ≠ none ∨ d.tx = [] → d' = d)) ∧
      (e = .txDone → (∀ v, d.tsr = some v → d' = { d with lineOut := d.lineOut ++ [v], tsr := none }) ∧
        (d.tsr = none → d' = d)) ∧
      (e ≠ .txLoad → e ≠ .txDone → (∀ b, e ≠ .rxArrive b) → d' = d)

/-- The test's actions on `DEV_REGFILE` between commands (R174, the spec's own choice, D18): a status bit set or cleared,
DATA set, a schedule given. That a schedule is the next byte and the list of those after it, and that setting or
clearing a bit while one stands changes the next byte alone and keeps the list, is the model's choice (log entry 22);
so is that nothing changes while a command is in progress, nor by a step of `DEV_FIFO`, which is no step of this device
(log entry 14). -/
def Obligations.TestActsOnRegfile : Prop :=
  ∀ (s : State) (d : RegFile) (rest : List Move) (e : EnvStep),
    s.foreign = none → s.dev = .regfile d → s.moves = .env e :: rest →
    ∃ d', step s = .next { s with moves := rest, draws := s.draws + 1, dev := .regfile d' } ∧
      (s.st ≠ .idle → d' = d) ∧
      (s.st = .idle →
        (e = .setThre → d' = { d with lsr := d.lsr ||| 0x20#8 }) ∧
        (e = .clearThre → d' = { d with lsr := d.lsr &&& 0xDF#8 }) ∧
        (e = .setDr → d' = { d with lsr := d.lsr ||| 0x01#8 }) ∧
        (e = .clearDr → d' = { d with lsr := d.lsr &&& 0xFE#8 }) ∧
        (∀ v, e = .setData v → d' = { d with data := v }) ∧
        (∀ b bs, e = .setSchedule b bs → d' = { d with lsr := b, later := bs })) ∧
      ((∃ b, e = .rxArrive b) ∨ e = .txLoad ∨ e = .txDone → d' = d)

/-- A step of the abstract device's own leaves its registers, its readiness (R239) and the controller alone; only, a byte
may have arrived (R140; its other changes show in the free values its reads answer, log entries 4 and 16). -/
def Obligations.AbstractDeviceMovesUnseen : Prop :=
  ∀ (s : State) (d : AbsDev) (rest : List Move) (e : EnvStep),
    s.foreign = none → s.dev = .abs d → s.moves = .env e :: rest →
    step s = .next { s with moves := rest, draws := s.draws + 1, dev := .abs { d with rxEmpty := false } }

/-- The interrupt output (R206): on `DEV_FIFO` it is OUT2 and enable bit 0 and the receive queue at the trigger level
(R191, the spec's own choice, D19); `DEV_REGFILE` never signals (R174, D18); no device signals with the data-received
source disabled, whatever the other bits of IRQ_ENABLE are (R147), or with OUT2 deasserted (R153), and the abstract
device not with no received byte pending (R149). For the abstract device these three are the model's reading, DEDUCED,
log entry 15. -/
def Obligations.InterruptIsEnabledAndRouted : Prop :=
  ∀ s : State,
    (∀ d, s.dev = .fifo d →
      (s.irq = true ↔ d.mcr.getLsbD 3 = true ∧ d.ier.getLsbD 0 = true ∧ triggerBytes d.trig ≤ d.rx.length)) ∧
    (∀ d, s.dev = .regfile d → s.irq = false) ∧
    (s.dev.ier.getLsbD 0 = false → s.irq = false) ∧ (s.dev.mcr.getLsbD 3 = false → s.irq = false) ∧
    (∀ d, s.dev = .abs d → d.rxEmpty = true → s.irq = false)

/-- Transmission is in order (R195 d): the bytes out, in the shifter and queued, read in that order, are kept by every
step of `DEV_FIFO`'s own, and a DATA write that finds room puts its byte at the end. -/
def Obligations.FifoTransmitsInOrder : Prop :=
  ∀ (depth : Nat) (d : FifoDev),
    (∀ e, (d.env depth e).lineOut ++ (d.env depth e).tsr.toList ++ (d.env depth e).tx = d.lineOut ++ d.tsr.toList ++ d.tx) ∧
    (∀ v, d.tx.length < d.cap depth → (d.writeData depth v).lineOut ++ (d.writeData depth v).tsr.toList ++
      (d.writeData depth v).tx = d.lineOut ++ d.tsr.toList ++ d.tx ++ [v]) ∧
    (∀ b, d.rx.length < d.cap depth → (d.rxArrive depth b).rx = d.rx ++ [b]) ∧
    (∀ e, ∃ more, (d.env depth e).rx = d.rx ++ more)

/-! ## Ports, reset, foreign requests -/

/-- The host's moves: a word offered, `AW + 2` bits of it (R70; log entry 1), waits behind the others (R95; that the port
holds any number is log entry 25); the oldest response is taken (R7), and with none pending the take changes nothing,
which is the model's choice (log entry 24); nothing else changes. -/
def Obligations.HostOffersAndTakes : Prop :=
  ∀ (s : State) (rest : List Move), s.foreign = none →
    (∀ w, s.moves = .offer w :: rest →
      step s = .next { s with moves := rest, port := s.port ++ [w % 2 ^ (s.params.addrWidth + 2)] }) ∧
    (s.moves = .take :: rest → step s = .next { s with moves := rest, rsp := s.rsp.tail })

/-- The reset input (R230): IDLE, not created, no response pending, no bus access and a new trace, the device untouched,
wherever the controller was; so a reset in the middle of a CREATE can leave DLAB at 1 (R234). `base`, `val` and `cnt`
are unspecified afterwards: nothing is said of them but the widths of `base` and `cnt`. -/
def Obligations.ResetForgetsTheHandle : Prop :=
  ∀ (s : State) (rest : List Move), s.foreign = none → s.moves = .reset :: rest → ∃ t, step s = .next t ∧
    t.st = .idle ∧ t.inited = false ∧ t.rsp = [] ∧ t.trace = [] ∧ t.dev = s.dev ∧ t.dlab = s.dlab ∧
    t.base < 2 ^ s.params.addrWidth ∧ t.cnt < 2 ^ cntWidth s.params.budget ∧ t.port = s.port ∧ t.params = s.params ∧
    t.moves = rest ∧ t.rdata = s.rdata ∧ t.foreign = none

/-- The state after reset holds what the spec states of it (R41, R230): IDLE, not created, no response, no trace, nothing
to do; and the parameters' defaults (R3, R4, 92_eei_decisions.md). A SEND or a RECV then answers NotCreated (R232). -/
def Obligations.ResetStateIsAsStated : Prop :=
  State.reset.st = .idle ∧ State.reset.inited = false ∧ State.reset.rsp = [] ∧ State.reset.trace = [] ∧
  State.reset.port = [] ∧ step State.reset = .next State.reset ∧
  State.reset.params.addrWidth = 64 ∧ State.reset.params.budget = 1000 ∧
  State.reset.params.devBase = 0x10000000 ∧ State.reset.params.fifoDepth = 16 ∧
  cntWidth State.reset.params.budget = 10 ∧
  (∀ arg, exec (.send arg) State.reset = .next { State.reset with rsp := [0x004#11] } ∧
    exec (.recv arg) State.reset = .next { State.reset with rsp := [0x004#11] })

/-- Other bus masters have no move (R7, D23, R213): after reset no foreign request stands at the window and no step of
any agent places one; one placed there from outside the run stops when it is wider than a byte (R52), stands while the
controller is busy (R205 b), or is outside the device's window (R59). The form of it is the model's, log entry 10. -/
def Obligations.OtherMasterMustKeepThePremises : Prop :=
  noOtherMaster State.reset ∧ (∀ s t : State, step s = .next t → noOtherMaster t) ∧
  ∀ (s : State) (r : BusReq) (n : Nat), s.foreign = some { req := r, size := n } →
    (n ≠ 1 → step s = .refused .wideAccess) ∧
    (n = 1 → s.st ≠ .idle → step s = .refused .unserialisedAccess) ∧
    (n = 1 → s.st = .idle → 8 ≤ addrSub s.params.addrWidth r.addr s.params.devBase →
      step s = .refused .addressNotDevice)

/-! ## Invariants -/

/-- The invariant of a run holds at reset. -/
def Obligations.RunInvariantHoldsAtReset : Prop := RunInv State.reset

/-- The invariant of a run is kept by every step, from every state that has it (R3, R22, R24, R42, R51, R59, R110, R129
b, R180, R195 a and b, R237, R238): the device is programmed as far as the sequence has come and wholly once CREATE has
completed, the counter stays within the budget, `base` and the words at the port keep their widths, TXWRITE finds the
device able to take a byte and RXREAD finds one there. The premise that no other agent accesses the window is part of
it (D23). -/
def Obligations.RunInvariantIsKept : Prop :=
  ∀ s t : State, RunInv s → step s = .next t → RunInv t

/-- What holds of the controller and the queues whoever else touches the window: the parameters' constraints, the widths
of `base` and of the words at the port, the counter's bounds, `inited` against the state, the window's validity, the
queues' capacity (R3, R21, R22, R24, R51, R59, R129 b, R180). -/
def Obligations.ControllerInvariantIsKept : Prop :=
  ∀ s t : State, paramsOk s → widthsOk s → counterOk s → initedOk s → windowOk s → queuesOk s → step s = .next t →
    paramsOk t ∧ widthsOk t ∧ counterOk t ∧ initedOk t ∧ windowOk t ∧ queuesOk t

/-- From every state that has the run's invariant the controller's step answers a next state, but for IDLE with a CREATE
of another address than the device's next at the port, whose run is refused (R59, R205 a, R246: the controller is never
stuck; that the refusal falls in this step is log entry 5). For IDLE with no command offered R90 and R98 say that the
controller is quiescent and has no step; that the model has one there, which leaves the state as it is, is the model's
choice (log entry 8). -/
def Obligations.ControllerAlwaysSteps : Prop :=
  ∀ s : State, RunInv s →
    (∀ w ws, s.st = .idle → s.port = w :: ws → w % 4 = 0 → w / 4 % 2 ^ s.params.addrWidth = s.params.devBase) →
    ∃ t, controllerStep s = .next t

/-- After a completed CREATE and with no other master, DLAB is 0 at every access the controller makes, the divisor is 3
and the line is set to 8N1, and a step keeps it so until the next CREATE is accepted or a reset (R42, R110, R161). -/
def Obligations.DlabStaysClearAfterCreate : Prop :=
  ∀ s t : State, RunInv s → s.inited = true → step s = .next t →
    s.dlab = false ∧ s.dev.divisor = 3#16 ∧ s.dev.lcr = 0x03#8 ∧ t.dlab = false ∧ t.dev.divisor = 3#16 ∧ t.dev.lcr = 0x03#8

/-! ## Rules of the whole machine -/

/-- Exactly one response word for every accepted command, at the step that ends it, and none at any other step of the
controller (R97). -/
def Obligations.OneResponseEndsEachCommand : Prop :=
  ∀ s t : State, controllerStep s = .next t →
    if t.st = .idle ∧ (s.st ≠ .idle ∨ s.port ≠ []) then ∃ w, t.rsp = s.rsp ++ [w] else t.rsp = s.rsp

/-- Every response a step adds has a named status, InitError never (R203) and the reserved codes never (R74); a failure
carries 0x00 (R200), and a timeout is answered only with `BUDGET` polls made (R201, R202). -/
def Obligations.ResponsesAreNamedResults : Prop :=
  ∀ (s t : State) (w : RspWord), step s = .next t → t.rsp = s.rsp ++ [w] →
    ∃ c, rspStatus w = some c ∧ c ≠ .initError ∧ (c ≠ .ok → rspData w = 0x00#8) ∧
      (c = .transmitTimeout → s.st = .txpoll ∧ s.cnt = s.params.budget) ∧
      (c = .receiveTimeout → s.st = .rxpoll ∧ s.cnt = s.params.budget) ∧
      (c = .notCreated → s.st = .idle ∧ s.inited = false)

/-- A controller step makes at most one access, a write at offsets 0 to 4 or a read at offset 0 or 5: never a read of
offsets 1 to 4, a write of offset 5, or an access at 6 or 7 (R8, R109, R161). -/
def Obligations.ControllerMakesOnlyItsAccesses : Prop :=
  ∀ s t : State, controllerStep s = .next t →
    t.trace = s.trace ∨ ∃ e, t.trace = s.trace ++ [e] ∧ controllerEvent e = true

/-- No step but the acceptance of a CREATE and the reset input writes `base` (R21), and no step changes the parameters;
each step takes exactly the move it makes off the list, and a foreign request, served first, is no move. -/
def Obligations.OnlyCreateWritesBase : Prop :=
  ∀ s t : State, step s = .next t →
    t.params = s.params ∧ t.moves = (if s.foreign = none then s.moves.tail else s.moves) ∧
    (t.base = s.base ∨
      (s.st = .idle ∧ t.st = .init1 ∧ t.inited = false ∧
        ∃ w ws, s.port = w :: ws ∧ w % 4 = 0 ∧ t.base = w / 4 % 2 ^ s.params.addrWidth) ∨
      ∃ rest, s.moves = .reset :: rest)

/-- In a controller step `val` is changed by the acceptance of a SEND and by nothing else (R23, R132): not by RECV, SIZE
or CREATE, nor by a row of a command in progress. The reset input is no controller step; it leaves `val` unspecified
(R230, ResetForgetsTheHandle). -/
def Obligations.OnlySendWritesVal : Prop :=
  ∀ s t : State, controllerStep s = .next t → t.val ≠ s.val →
    s.st = .idle ∧ t.st = .txpoll ∧ ∃ w ws, s.port = w :: ws ∧ w % 4 = 2 ∧
      t.val = BitVec.ofNat 8 (w / 4 % 2 ^ s.params.addrWidth)

/-- Under the run's invariant every command in progress has a controller step, and is nearer its end after it (R246); an
accepted one has at most 8 steps left for CREATE and `BUDGET + 1` for SEND and RECV; every move of the host or the device
answers a next state and does not lengthen it. So in a run without a reset in which the controller still has as many
moves as steps are left, the command ends: within `BUDGET + 2` controller steps, 9 for CREATE, the accepting one
counted, however the others move between (R95, R129 e). -/
def Obligations.EveryCommandEnds : Prop :=
  (∀ s : State, RunInv s → s.st ≠ .idle → ∃ t, controllerStep s = .next t ∧ stepsLeft t < stepsLeft s) ∧
  (∀ s t : State, s.st = .idle → controllerStep s = .next t →
    stepsLeft t ≤ (if t.st = .init1 then 8 else s.params.budget + 1)) ∧
  (∀ (s : State) (m : Move) (rest : List Move), RunInv s → s.moves = m :: rest → m ≠ .controller → m ≠ .reset →
    ∃ t, step s = .next t ∧ stepsLeft t = stepsLeft s) ∧
  (∀ s : State, stepsLeft s = 0 ↔ s.st = .idle) ∧
  (∀ s : State, RunInv s → .reset ∉ s.moves → stepsLeft s ≤ s.moves.count .controller →
    ∃ k t, k ≤ s.moves.length ∧ runFor k s = .next t ∧ t.st = .idle)

/-! ## Whole commands -/

/-- CREATE of the device's window: nine controller steps, exactly the eight writes in order and no read, answer Ok,
device programmed, on every device and for either DLAB on entry (R91, R100, R111, R203). The premise `moves = []` is
that only the controller moves, no host or device move falling between the steps (log entry 3). -/
def Obligations.CreateMakesTheEightWrites : Prop :=
  ∀ (s : State) (w : Nat) (ws : List Nat) (a : Nat),
    s.foreign = none → s.moves = [] → s.st = .idle → s.port = w :: ws → decodeCmd s.params.addrWidth w = .create a →
    a = s.params.devBase → s.params.wellFormed = true →
    ∃ t, runFor 9 s = .next t ∧
      t.trace = s.trace ++ [.wr 1 0x00#8, .wr 3 0x80#8, .wr 0 0x03#8, .wr 1 0x00#8,
        .wr 3 0x03#8, .wr 2 0xC7#8, .wr 4 0x0B#8, .wr 1 0x01#8] ∧
      t.rsp = s.rsp ++ [0x000#11] ∧ t.st = .idle ∧ t.inited = true ∧ t.base = a ∧ deviceProgrammed t.dev ∧
      t.dlab = false ∧ t.port = ws ∧ t.val = s.val ∧ t.cnt = s.cnt ∧ t.params = s.params

/-- A whole SEND, on every device and whatever each read answers (R93, R129): it makes `k` polls, `k <= BUDGET`; either
the last one alone shows bit 5, and then `arg[7:0]` is written to offset 0 once, as the last access, and Ok is answered;
or there were exactly `BUDGET`, none showed it, nothing is written and TransmitTimeout is answered. It takes `k + 2`
controller steps. The premise `moves = []` is that only the controller moves, no host or device move falling between the
polls (log entry 3). -/
def Obligations.SendPollsThenWritesOnceOrNever : Prop :=
  ∀ (s : State) (w : Nat) (ws : List Nat) (a : Nat),
    s.foreign = none → s.moves = [] → s.st = .idle → s.port = w :: ws → decodeCmd s.params.addrWidth w = .send a →
    s.inited = true → windowValid s →
    ∃ (t : State) (polls : List Byte), runFor (polls.length + 2) s = .next t ∧
      t.st = .idle ∧ t.inited = true ∧ t.base = s.base ∧ t.port = ws ∧ t.params = s.params ∧
      t.val = BitVec.ofNat 8 a ∧ t.cnt = polls.length ∧ polls.length ≤ s.params.budget ∧
      ((∃ misses b, polls = misses ++ [b] ∧ (∀ x ∈ misses, x &&& 0x20#8 = 0#8) ∧ b &&& 0x20#8 ≠ 0#8 ∧
          t.trace = s.trace ++ polls.map (BusEvent.rd 5) ++ [.wr 0 (BitVec.ofNat 8 a)] ∧
          t.rsp = s.rsp ++ [0x000#11]) ∨
       (polls.length = s.params.budget ∧ (∀ x ∈ polls, x &&& 0x20#8 = 0#8) ∧
          t.trace = s.trace ++ polls.map (BusEvent.rd 5) ∧ t.rsp = s.rsp ++ [0x001#11]))

/-- A whole RECV, on every device and whatever each read answers (R94, R129): `k` polls; either the last one alone shows
bit 0, and then offset 0 is read once and Ok is answered with the byte that read answered; or there were exactly
`BUDGET`, none showed it, DATA is not touched and ReceiveTimeout is answered. It makes no write and leaves `val`
alone. The premise `moves = []` is that only the controller moves, no host or device move falling between the polls (log
entry 3). -/
def Obligations.RecvPollsThenReadsOnceOrNever : Prop :=
  ∀ (s : State) (w : Nat) (ws : List Nat) (a : Nat),
    s.foreign = none → s.moves = [] → s.st = .idle → s.port = w :: ws → decodeCmd s.params.addrWidth w = .recv a →
    s.inited = true → windowValid s →
    ∃ (t : State) (polls : List Byte), runFor (polls.length + 2) s = .next t ∧
      t.st = .idle ∧ t.inited = true ∧ t.base = s.base ∧ t.port = ws ∧ t.params = s.params ∧
      t.val = s.val ∧ t.cnt = polls.length ∧ polls.length ≤ s.params.budget ∧
      ((∃ misses b d, polls = misses ++ [b] ∧ (∀ x ∈ misses, x &&& 0x01#8 = 0#8) ∧ b &&& 0x01#8 ≠ 0#8 ∧
          t.trace = s.trace ++ polls.map (BusEvent.rd 5) ++ [.rd 0 d] ∧
          t.rsp = s.rsp ++ [BitVec.ofNat 11 (d.toNat * 8)]) ∨
       (polls.length = s.params.budget ∧ (∀ x ∈ polls, x &&& 0x01#8 = 0#8) ∧
          t.trace = s.trace ++ polls.map (BusEvent.rd 5) ∧ t.rsp = s.rsp ++ [0x002#11]))

/-- The handshake on `DEV_FIFO` (R195 a and b): under the run's invariant the byte TXWRITE writes is queued and never
dropped, and RXREAD answers the oldest unread byte and never the stale one. -/
def Obligations.FifoHandshakeLosesNothing : Prop :=
  ∀ (s : State) (d : FifoDev), RunInv s → s.dev = .fifo d →
    (s.st = .txwrite → ∃ t, controllerStep s = .next t ∧ t.dev = .fifo { d with tx := [s.val] }) ∧
    (s.st = .rxread → ∃ t b r, d.rx = b :: r ∧ controllerStep s = .next t ∧
      t.dev = .fifo { d with rx := r, last := b } ∧ t.rsp = s.rsp ++ [BitVec.ofNat 11 (b.toNat * 8)])

/-- The divisor the sequence writes is the ratio of the two rates, split into bytes, and gives 38400 bits per second
exactly (R5, R112, R162). -/
def Obligations.DivisorIsTheRatio : Prop :=
  (divisorOf dlmInit dllInit).toNat * targetBaud = refRate ∧
  lineRate (divisorOf dlmInit dllInit) = some targetBaud ∧
  (∀ (n : BitVec 16) (r : Nat), lineRate n = some r → r * n.toNat = refRate)
end

