-- ==== Sys2Proof/Laws/Bits.lean ====
section
/-! SUPPORT. Lemmas about words: the fields of packed words, the poll test, the counter's width. -/

namespace Sys2Proof

/-! ### Window transactions (R76) -/

theorem xactWord_toNat (rw : Bool) (off : Offset) (d : Byte) :
    (xactWord rw off d).toNat = (if rw then 0x800 else 0) + off.toNat * 0x100 + d.toNat := by
  have := off.isLt
  have := d.isLt
  unfold xactWord
  rw [BitVec.toNat_ofNat, Nat.mod_eq_of_lt]
  split <;> omega

@[simp] theorem xactRw_xactWord (rw : Bool) (off : Offset) (d : Byte) : xactRw (xactWord rw off d) = rw := by
  have := off.isLt
  have := d.isLt
  rw [xactRw, BitVec.getLsbD, xactWord_toNat, Nat.testBit_eq_decide_div_mod_eq]
  cases rw <;> simp <;> omega

@[simp] theorem xactOff_xactWord (rw : Bool) (off : Offset) (d : Byte) : xactOff (xactWord rw off d) = off := by
  have := off.isLt
  have := d.isLt
  apply BitVec.eq_of_toNat_eq
  rw [xactOff, BitVec.extractLsb'_toNat, xactWord_toNat, Nat.shiftRight_eq_div_pow]
  cases rw <;> simp <;> omega

@[simp] theorem xactData_xactWord (rw : Bool) (off : Offset) (d : Byte) : xactData (xactWord rw off d) = d := by
  have := off.isLt
  have := d.isLt
  apply BitVec.eq_of_toNat_eq
  rw [xactData, BitVec.extractLsb'_toNat, xactWord_toNat, Nat.shiftRight_eq_div_pow]
  cases rw <;> simp <;> omega

theorem xactWord_fields (x : XactWord) : xactWord (xactRw x) (xactOff x) (xactData x) = x := by
  have := x.isLt
  apply BitVec.eq_of_toNat_eq
  rw [xactWord_toNat, xactRw, xactOff, xactData, BitVec.extractLsb'_toNat, BitVec.extractLsb'_toNat,
    Nat.shiftRight_eq_div_pow, Nat.shiftRight_eq_div_pow, BitVec.getLsbD, Nat.testBit_eq_decide_div_mod_eq]
  simp only [decide_eq_true_eq]
  split <;> omega

/-! ### Command words (R70) -/

/-- The two fields of a command word do not meet: `arg * 4 + op` (R70). -/
theorem cmdWord_div (op : CmdOp) (a : Nat) : cmdWord op a / 4 = a ∧ cmdWord op a % 4 = op.bits.toNat := by
  have := op.bits.isLt
  unfold cmdWord
  omega

theorem cmdArg_cmdWord {aw : Nat} (op : CmdOp) {a : Nat} (h : a < 2 ^ aw) : cmdArg aw (cmdWord op a) = a := by
  rw [cmdArg, (cmdWord_div op a).1, Nat.mod_eq_of_lt h]

theorem cmdOpBits_toNat (w : Nat) : (cmdOpBits w).toNat = w % 4 := by simp [cmdOpBits]

@[simp] theorem cmdOpOf_bits (op : CmdOp) : cmdOpOf op.bits = op := by cases op <;> rfl

@[simp] theorem cmdOp_cmdWord (op : CmdOp) (a : Nat) : cmdOp (cmdWord op a) = op := by
  have h : cmdOpBits (cmdWord op a) = op.bits := by
    apply BitVec.eq_of_toNat_eq
    rw [cmdOpBits_toNat, (cmdWord_div op a).2]
  rw [cmdOp, h, cmdOpOf_bits]

theorem bits_cmdOpOf (b : BitVec 2) : (cmdOpOf b).bits = b := by revert b; decide

theorem cmdArg_of_lt {aw : Nat} {w : Nat} (h : w < 2 ^ (aw + 2)) : cmdArg aw w = w / 4 := by
  rw [cmdArg, Nat.mod_eq_of_lt]
  rw [Nat.pow_add] at h
  omega

theorem cmdWord_fields {aw : Nat} {w : Nat} (h : w < 2 ^ (aw + 2)) : cmdWord (cmdOp w) (cmdArg aw w) = w := by
  rw [cmdWord, cmdOp, bits_cmdOpOf, cmdOpBits_toNat, cmdArg_of_lt h]
  omega

/-- A command word of an operand that fits has `AW + 2` bits (R70). -/
theorem cmdWord_lt {aw : Nat} (op : CmdOp) {a : Nat} (h : a < 2 ^ aw) : cmdWord op a < 2 ^ (aw + 2) := by
  have := op.bits.isLt
  rw [cmdWord, Nat.pow_add]
  omega

theorem cmdArg_lt (aw : Nat) (w : Nat) : cmdArg aw w < 2 ^ aw := Nat.mod_lt _ (Nat.two_pow_pos aw)

/-- The operation of a command word, by its value (R70, R71). -/
theorem cmdOp_cases (w : Nat) :
    cmdOp w = .create ∧ w % 4 = 0 ∨ cmdOp w = .size ∧ w % 4 = 1 ∨
    cmdOp w = .send ∧ w % 4 = 2 ∨ cmdOp w = .recv ∧ w % 4 = 3 := by
  have h := cmdOpBits_toNat w
  have : w % 4 = 0 ∨ w % 4 = 1 ∨ w % 4 = 2 ∨ w % 4 = 3 := by omega
  unfold cmdOp cmdOpOf
  rw [h]
  rcases this with h | h | h | h <;> rw [h] <;> simp

/-- Every window transaction decodes to a row of its own format (R78). -/
theorem decodeXact_format (dlab : Bool) (x : XactWord) : (decodeXact dlab x).format = .xact := by
  unfold decodeXact
  dsimp only
  split <;> split <;> cases dlab <;> rfl

namespace Machine

/-! ### Response words (R73) -/

theorem rspWord_toNat (c : Status) (d : Byte) : (rspWord c d).toNat = d.toNat * 8 + (statusCode c).toNat := by
  have := d.isLt
  have := (statusCode c).isLt
  unfold rspWord
  rw [BitVec.toNat_ofNat, Nat.mod_eq_of_lt]
  omega

@[simp] theorem rspStatus_rspWord (c : Status) (d : Byte) : rspStatus (rspWord c d) = some c := by
  have h : (rspWord c d).extractLsb' 0 3 = statusCode c := by
    have := (statusCode c).isLt
    apply BitVec.eq_of_toNat_eq
    rw [BitVec.extractLsb'_toNat, rspWord_toNat, Nat.shiftRight_eq_div_pow]
    omega
  rw [rspStatus, h]
  cases c <;> rfl

@[simp] theorem rspData_rspWord (c : Status) (d : Byte) : rspData (rspWord c d) = d := by
  have := d.isLt
  have := (statusCode c).isLt
  apply BitVec.eq_of_toNat_eq
  rw [rspData, BitVec.extractLsb'_toNat, rspWord_toNat, Nat.shiftRight_eq_div_pow]
  omega

/-! ### Requests of the controller (R51, R66) -/

/-- `base + off - base` is `off`, reduced modulo `2^AW` as both sums are (R51, R66). -/
theorem addrSub_effAddr {aw : Nat} {base : Nat} {off : Offset} (h : off.toNat < 2 ^ aw) :
    addrSub aw (effAddr aw base off) base = off.toNat := by
  unfold addrSub effAddr addrAdd
  have hp := Nat.two_pow_pos aw
  have hb := Nat.mod_lt base hp
  rw [Nat.add_mod base, Nat.mod_eq_of_lt h]
  generalize base % 2 ^ aw = b at *
  generalize off.toNat = o at *
  generalize 2 ^ aw = m at *
  by_cases hc : b + o < m
  · rw [Nat.mod_eq_of_lt hc, show b + o + (m - b) = o + m by omega, Nat.add_mod_right, Nat.mod_eq_of_lt h]
  · have e : (b + o) % m = b + o - m := by
      rw [Nat.mod_eq_sub_mod (show m ≤ b + o by omega), Nat.mod_eq_of_lt (show b + o - m < m by omega)]
    rw [e, show b + o - m + (m - b) = o by omega, Nat.mod_eq_of_lt h]

theorem reqOffset_effAddr {aw : Nat} {base : Nat} {rw : Bool} {off : Offset} {v : Byte} (h : off.toNat < 2 ^ aw) :
    reqOffset aw base { write := rw, addr := effAddr aw base off, wdata := v } = off := by
  rw [reqOffset, addrSub_effAddr h]
  simp

theorem reqXact_writeReq {aw : Nat} {base : Nat} {off : Offset} {v : Byte} (h : off.toNat < 2 ^ aw) :
    reqXact aw base (writeReq aw base off v) = xactWord true off v := by
  simp [reqXact, writeReq, reqOffset_effAddr h]

theorem reqXact_readReq {aw : Nat} {base : Nat} {off : Offset} (h : off.toNat < 2 ^ aw) :
    reqXact aw base (readReq aw base off) = xactWord false off 0x00#8 := by
  simp [reqXact, readReq, reqOffset_effAddr h]

/-- A window that does not pass the top holds every offset. -/
theorem offset_lt_of_fits {aw : Nat} {base : Nat} (h : windowPassesTop aw base = false) (off : Offset) :
    off.toNat < 2 ^ aw := by
  have := off.isLt
  simp [windowPassesTop] at h
  omega

/-! ### The poll test (R122) -/

theorem hit_iff (mask s : Byte) : hit mask s = true ↔ s &&& mask ≠ 0#8 := by simp [hit]

theorem hit_lsrThre (s : Byte) : hit lsrThre s = threOf s := by revert s; decide

theorem hit_lsrDr (s : Byte) : hit lsrDr s = drOf s := by revert s; decide

/-! ### The counter's width (R4, R129 b) -/

theorem budget_lt_width (b : Nat) : b < 2 ^ cntWidth b := by
  unfold cntWidth
  split
  · simp_all
  · exact Nat.lt_log2_self

theorem cntNext_of_lt {b c : Nat} (h : c < b) : cntNext b c = c + 1 := by
  have := budget_lt_width b
  exact Nat.mod_eq_of_lt (by omega)

theorem cntNext_lt_width (b c : Nat) : cntNext b c < 2 ^ cntWidth b :=
  Nat.mod_lt _ (Nat.two_pow_pos _)

end Machine

end Sys2Proof
end

