-- ==== Sys2Proof/Laws/Device.lean ====
section
/-! SUPPORT. What a register write, a register read and a step of its own do to the device: the registers each leaves
alone, what stays programmed, and the queues of `DEV_FIFO`. -/

namespace Sys2Proof.Machine

variable (depth n : Nat) (v c : Byte) (d : Device)

theorem dlab_eq : d.dlab = dlabOf d.lcr := by cases d <;> rfl

/-! ### The abstract device -/

/-- Ready, it takes the byte (R141). -/
theorem AbsDev.writeData_ready (f : AbsDev) (h : f.thre = true) :
    f.writeData v n = { f with thr := v, thre := false } := by simp [AbsDev.writeData, h]

/-- Everything a DATA write can do: the byte is taken, or the whole state is unspecified (R141, U3). -/
theorem AbsDev.writeData_cases (f : AbsDev) :
    f.writeData v n = { f with thr := v, thre := false } ∨ f.thre = false ∧ f.writeData v n = .unspecified n := by
  unfold AbsDev.writeData
  cases f.thre <;> cases Config.freeBit n 1 <;> simp

/-- With a byte there, it gives it (R142). -/
theorem AbsDev.readData_ready (f : AbsDev) (h : f.dr = true) :
    f.readData c n = { f with rbr := c, dr := false } := by simp [AbsDev.readData, h]

/-- Everything a DATA read can do: a byte is taken, or the whole state is unspecified (R142, U2). -/
theorem AbsDev.readData_cases (f : AbsDev) :
    f.readData c n = { f with rbr := c, dr := false } ∨ f.dr = false ∧ f.readData c n = .unspecified n := by
  unfold AbsDev.readData
  cases f.dr <;> cases Config.freeBit n 2 <;> simp

/-! ### The parts of `DEV_FIFO`'s larger operations -/

theorem FifoDev.writeData_cases (f : FifoDev) :
    f.writeData depth v = { f with tx := f.tx ++ [v] } ∧ f.tx.length < f.cap depth ∨
    f.writeData depth v = f ∧ f.cap depth ≤ f.tx.length := by
  unfold FifoDev.writeData
  split
  · exact .inl ⟨rfl, ‹_›⟩
  · exact .inr ⟨rfl, by omega⟩

theorem FifoDev.readData_cases (f : FifoDev) :
    (∃ b r, f.rx = b :: r ∧ f.readData = (b, { f with rx := r, last := b })) ∨
    f.rx = [] ∧ f.readData = (f.last, f) := by
  unfold FifoDev.readData
  cases h : f.rx with
  | nil => exact .inr ⟨rfl, rfl⟩
  | cons b r => exact .inl ⟨b, r, rfl, rfl⟩

/-- A write of FIFO_CONTROL empties the receive queue, or keeps it and the enable (R183). -/
theorem FifoDev.writeFcr_rx (f : FifoDev) :
    (f.writeFcr v).rx = [] ∨ (f.writeFcr v).rx = f.rx ∧ fcrEnable v = f.fifoEn := by
  unfold FifoDev.writeFcr
  by_cases he : fcrEnable v = f.fifoEn
  · by_cases hc : fcrClearRx v = true <;> simp [he, hc]
  · simp [he]

/-- A write of FIFO_CONTROL empties the transmit queue, or keeps it and the enable (R183). -/
theorem FifoDev.writeFcr_tx (f : FifoDev) :
    (f.writeFcr v).tx = [] ∨ (f.writeFcr v).tx = f.tx ∧ fcrEnable v = f.fifoEn := by
  unfold FifoDev.writeFcr
  by_cases he : fcrEnable v = f.fifoEn
  · by_cases hc : fcrClearTx v = true <;> simp [he, hc]
  · simp [he]

theorem FifoDev.writeFcr_cap (f : FifoDev) (h : fcrEnable v = f.fifoEn) : (f.writeFcr v).cap depth = f.cap depth := by
  simp [FifoDev.cap, FifoDev.writeFcr, h]

/-- Everything a step of `DEV_FIFO`'s own can do (R192). -/
theorem FifoDev.env_cases (e : EnvStep) (f : FifoDev) :
    f.env depth e = f ∨
    (∃ b, f.env depth e = { f with rx := f.rx ++ [b] } ∧ f.rx.length < f.cap depth) ∨
    f.env depth e = { f with oe := true } ∨
    (∃ b t, f.tx = b :: t ∧ f.env depth e = { f with tsr := some b, tx := t }) ∨
    (∃ b, f.env depth e = { f with lineOut := f.lineOut ++ [b], tsr := none }) := by
  cases e with
  | rxArrive b =>
    unfold FifoDev.env FifoDev.rxArrive
    dsimp only
    split
    · exact .inr (.inl ⟨b, rfl, ‹_›⟩)
    · exact .inr (.inr (.inl rfl))
  | txLoad =>
    unfold FifoDev.env FifoDev.txLoad
    dsimp only
    split
    · exact .inr (.inr (.inr (.inl ⟨_, _, ‹_›, rfl⟩)))
    · exact .inl rfl
    · exact .inl rfl
  | txDone =>
    unfold FifoDev.env FifoDev.txDone
    dsimp only
    split
    · exact .inr (.inr (.inr (.inr ⟨_, rfl⟩)))
    · exact .inl rfl
  | setThre => exact .inl rfl
  | clearThre => exact .inl rfl
  | setDr => exact .inl rfl
  | clearDr => exact .inl rfl
  | setData _ => exact .inl rfl
  | setSchedule _ _ => exact .inl rfl

/-! ### The status byte of `DEV_FIFO` (R181) -/

theorem threOf_lsr (f : FifoDev) : threOf f.lsr = f.tx.isEmpty := by
  unfold FifoDev.lsr
  generalize f.tx.isEmpty = a; generalize f.tsr.isNone = b; generalize f.rx.isEmpty = c'; generalize f.oe = o
  revert a b c' o; decide

theorem drOf_lsr (f : FifoDev) : drOf f.lsr = !f.rx.isEmpty := by
  unfold FifoDev.lsr
  generalize f.tx.isEmpty = a; generalize f.tsr.isNone = b; generalize f.rx.isEmpty = c'; generalize f.oe = o
  revert a b c' o; decide

/-! ### Registers after a write -/

/-- The registers that no DATA or status access of a device in order touches are the same. -/
def sameControl (d d' : Device) : Prop :=
  d'.dll = d.dll ∧ d'.dlm = d.dlm ∧ d'.ier = d.ier ∧ d'.lcr = d.lcr ∧ d'.mcr = d.mcr ∧
  (fifoProgrammed d → fifoProgrammed d')

theorem sameControl_refl : sameControl d d := ⟨rfl, rfl, rfl, rfl, rfl, id⟩

/-- What was programmed stays so. -/
theorem sameControl.programmed {d d' : Device} (h : sameControl d d') (hp : deviceProgrammed d) :
    deviceProgrammed d' := by
  obtain ⟨h1, h2, h3, h4, h5, h6⟩ := h
  obtain ⟨⟨p1, p2⟩, p3, p4, p5, p6⟩ := hp
  exact ⟨⟨h1.trans p1, h2.trans p2⟩, h4.trans p3, h6 p4, h5.trans p5, h3.trans p6⟩

theorem sameControl.dlab {d d' : Device} (h : sameControl d d') : d'.dlab = d.dlab := by
  rw [dlab_eq, dlab_eq, h.2.2.2.1]

/-- A DATA write of a device that can take the byte leaves the control registers alone (R141, R172, R184). -/
theorem write_data_same (h : transmitReady d) : sameControl d (d.write depth .data v n) := by
  cases d with
  | abs f =>
    change sameControl _ (.abs (f.writeData v n))
    rw [f.writeData_ready n v h]
    exact ⟨rfl, rfl, rfl, rfl, rfl, id⟩
  | regfile f => exact ⟨rfl, rfl, rfl, rfl, rfl, id⟩
  | fifo f =>
    change sameControl _ (.fifo (f.writeData depth v))
    rcases f.writeData_cases depth v with ⟨e, _⟩ | ⟨e, _⟩ <;> rw [e] <;> exact ⟨rfl, rfl, rfl, rfl, rfl, id⟩

@[simp] theorem write_divisorLsb_dll : (d.write depth .divisorLsb v n).dll = v := by cases d <;> rfl
@[simp] theorem write_divisorLsb_dlm : (d.write depth .divisorLsb v n).dlm = d.dlm := by cases d <;> rfl
@[simp] theorem write_divisorLsb_ier : (d.write depth .divisorLsb v n).ier = d.ier := by cases d <;> rfl
@[simp] theorem write_divisorLsb_lcr : (d.write depth .divisorLsb v n).lcr = d.lcr := by cases d <;> rfl
@[simp] theorem write_divisorLsb_mcr : (d.write depth .divisorLsb v n).mcr = d.mcr := by cases d <;> rfl
@[simp] theorem write_divisorMsb_dll : (d.write depth .divisorMsb v n).dll = d.dll := by cases d <;> rfl
@[simp] theorem write_divisorMsb_dlm : (d.write depth .divisorMsb v n).dlm = v := by cases d <;> rfl
@[simp] theorem write_divisorMsb_ier : (d.write depth .divisorMsb v n).ier = d.ier := by cases d <;> rfl
@[simp] theorem write_divisorMsb_lcr : (d.write depth .divisorMsb v n).lcr = d.lcr := by cases d <;> rfl
@[simp] theorem write_divisorMsb_mcr : (d.write depth .divisorMsb v n).mcr = d.mcr := by cases d <;> rfl
@[simp] theorem write_irqEnable_dll : (d.write depth .irqEnable v n).dll = d.dll := by cases d <;> rfl
@[simp] theorem write_irqEnable_dlm : (d.write depth .irqEnable v n).dlm = d.dlm := by cases d <;> rfl
@[simp] theorem write_irqEnable_lcr : (d.write depth .irqEnable v n).lcr = d.lcr := by cases d <;> rfl
@[simp] theorem write_irqEnable_mcr : (d.write depth .irqEnable v n).mcr = d.mcr := by cases d <;> rfl
@[simp] theorem write_fifoControl_dll : (d.write depth .fifoControl v n).dll = d.dll := by cases d <;> rfl
@[simp] theorem write_fifoControl_dlm : (d.write depth .fifoControl v n).dlm = d.dlm := by cases d <;> rfl
@[simp] theorem write_fifoControl_ier : (d.write depth .fifoControl v n).ier = d.ier := by cases d <;> rfl
@[simp] theorem write_fifoControl_lcr : (d.write depth .fifoControl v n).lcr = d.lcr := by cases d <;> rfl
@[simp] theorem write_fifoControl_mcr : (d.write depth .fifoControl v n).mcr = d.mcr := by cases d <;> rfl
@[simp] theorem write_lineControl_dll : (d.write depth .lineControl v n).dll = d.dll := by cases d <;> rfl
@[simp] theorem write_lineControl_dlm : (d.write depth .lineControl v n).dlm = d.dlm := by cases d <;> rfl
@[simp] theorem write_lineControl_ier : (d.write depth .lineControl v n).ier = d.ier := by cases d <;> rfl
@[simp] theorem write_lineControl_lcr : (d.write depth .lineControl v n).lcr = v := by cases d <;> rfl
@[simp] theorem write_lineControl_mcr : (d.write depth .lineControl v n).mcr = d.mcr := by cases d <;> rfl
@[simp] theorem write_modemControl_dll : (d.write depth .modemControl v n).dll = d.dll := by cases d <;> rfl
@[simp] theorem write_modemControl_dlm : (d.write depth .modemControl v n).dlm = d.dlm := by cases d <;> rfl
@[simp] theorem write_modemControl_ier : (d.write depth .modemControl v n).ier = d.ier := by cases d <;> rfl
@[simp] theorem write_modemControl_lcr : (d.write depth .modemControl v n).lcr = d.lcr := by cases d <;> rfl

/-- IRQ_ENABLE takes the byte; `DEV_FIFO` keeps its low four bits (R147, R187). -/
theorem write_irqEnable_ier (h : v &&& 0x0F#8 = v) : (d.write depth .irqEnable v n).ier = v := by
  cases d <;> first | rfl | exact h

/-- MODEM_CONTROL takes the byte; `DEV_FIFO` keeps its low five bits (R153, R189). -/
theorem write_modemControl_mcr (h : v &&& 0x1F#8 = v) : (d.write depth .modemControl v n).mcr = v := by
  cases d <;> first | rfl | exact h

/-- A control write other than FIFO_CONTROL keeps the FIFOs as programmed. -/
theorem fifoProgrammed_write {r : WriteReg} (hd : r ≠ .data) (hr : r ≠ .fifoControl) (h : fifoProgrammed d) :
    fifoProgrammed (d.write depth r v n) := by
  cases d <;> cases r <;> first | exact h | exact absurd rfl hr | exact absurd rfl hd

theorem fifoProgrammed_fcrInit : fifoProgrammed (d.write depth .fifoControl fcrInit n) := by
  cases d with
  | abs f => rfl
  | regfile f => rfl
  | fifo f => exact ⟨rfl, rfl⟩

/-! ### The control writes, as equalities of whole devices -/

theorem write_divisorLsb : d.write depth .divisorLsb v n = d.setDll v := by cases d <;> rfl
theorem write_divisorMsb : d.write depth .divisorMsb v n = d.setDlm v := by cases d <;> rfl
theorem write_lineControl : d.write depth .lineControl v n = d.setLcr v := by cases d <;> rfl

theorem write_irqEnable (h : v &&& 0x0F#8 = v) : d.write depth .irqEnable v n = d.setIer v := by
  cases d with
  | abs f => rfl
  | regfile f => rfl
  | fifo f => simp [Device.write, FifoDev.write, Device.setIer, h]

theorem write_modemControl (h : v &&& 0x1F#8 = v) : d.write depth .modemControl v n = d.setMcr v := by
  cases d with
  | abs f => rfl
  | regfile f => rfl
  | fifo f => simp [Device.write, FifoDev.write, Device.setMcr, h]

/-- FIFO_CONTROL = 0xC7 (R149, R183). -/
theorem write_fcrInit : d.write depth .fifoControl fcrInit n = d.fifosStarted := by
  have h1 : fcrEnable 0xC7#8 = true := by decide
  have h2 : fcrClearRx 0xC7#8 = true := by decide
  have h3 : fcrClearTx 0xC7#8 = true := by decide
  have h4 : fcrTrigger 0xC7#8 = .fourteen := by decide
  cases d <;> simp [Device.write, AbsDev.write, AbsDev.writeFcr, RegFile.write, FifoDev.write, FifoDev.writeFcr,
    Device.fifosStarted, h1, h2, h3, h4, fcrInit]

/-! ### A read, and a step of the device's own -/

/-- A read leaves the control registers alone, if a DATA read finds a byte (R142, R155, R173, R182, R185). -/
theorem read_same (r : ReadReg) (h : r = .data → receiveReady d) : sameControl d (d.read r n).2 := by
  cases d with
  | abs f =>
    cases r <;> try exact sameControl_refl _
    change sameControl _ (.abs (f.readData (Config.freeByte n) n))
    rw [f.readData_ready n _ (h rfl)]
    exact ⟨rfl, rfl, rfl, rfl, rfl, id⟩
  | regfile f =>
    cases r <;> try exact sameControl_refl _
    change sameControl _ (.regfile f.advance)
    unfold RegFile.advance
    split <;> exact ⟨rfl, rfl, rfl, rfl, rfl, id⟩
  | fifo f =>
    cases r <;> try exact sameControl_refl _
    change sameControl _ (.fifo f.readData.2)
    rcases f.readData_cases with ⟨b, r, _, e⟩ | ⟨_, e⟩ <;> rw [e] <;> exact ⟨rfl, rfl, rfl, rfl, rfl, id⟩

/-- A step of the device's own leaves the control registers alone (R140, R174, R192). -/
theorem env_same (between : Bool) (e : EnvStep) : sameControl d (d.env depth between e) := by
  cases d with
  | abs f => exact ⟨rfl, rfl, rfl, rfl, rfl, id⟩
  | regfile f =>
    cases between with
    | false => exact sameControl_refl _
    | true => cases e <;> exact ⟨rfl, rfl, rfl, rfl, rfl, id⟩
  | fifo f =>
    change sameControl _ (.fifo (f.env depth e))
    rcases f.env_cases depth e with h | ⟨b, h, _⟩ | h | ⟨b, t, _, h⟩ | ⟨b, h⟩ <;> rw [h] <;>
      exact ⟨rfl, rfl, rfl, rfl, rfl, id⟩

/-! ### Readiness (R195 a, b, R237 to R239) -/

/-- A status byte with THRE set comes of a device that can take a byte. -/
theorem transmitReady_status (h : hit lsrThre (d.read .lineStatus n).1 = true) :
    transmitReady (d.read .lineStatus n).2 := by
  rw [hit_lsrThre] at h
  cases d with
  | abs f => exact h
  | regfile f => trivial
  | fifo f =>
    change threOf f.lsr = true at h
    rw [threOf_lsr, List.isEmpty_iff] at h
    exact h

/-- A status byte with DR set comes of a device that has a byte. -/
theorem receiveReady_status (h : hit lsrDr (d.read .lineStatus n).1 = true) :
    receiveReady (d.read .lineStatus n).2 := by
  rw [hit_lsrDr] at h
  cases d with
  | abs f => exact h
  | regfile f => trivial
  | fifo f =>
    change drOf f.lsr = true at h
    rw [drOf_lsr] at h
    intro (e : f.rx = [])
    simp [e] at h

/-- The device moves between a poll and the access, harmlessly (R239). -/
theorem transmitReady_env (between : Bool) (e : EnvStep) (h : transmitReady d) :
    transmitReady (d.env depth between e) := by
  cases d with
  | abs f => exact h
  | regfile f => cases between <;> trivial
  | fifo f =>
    change (f.env depth e).tx = []
    rcases f.env_cases depth e with g | ⟨b, g, _⟩ | g | ⟨b, t, ht, g⟩ | ⟨b, g⟩ <;> rw [g]
    · exact h
    · exact h
    · exact h
    · exact nomatch ht.symm.trans (show f.tx = [] from h)
    · exact h

theorem receiveReady_env (between : Bool) (e : EnvStep) (h : receiveReady d) :
    receiveReady (d.env depth between e) := by
  cases d with
  | abs f => exact h
  | regfile f => cases between <;> trivial
  | fifo f =>
    change (f.env depth e).rx ≠ []
    rcases f.env_cases depth e with g | ⟨b, g, _⟩ | g | ⟨b, t, ht, g⟩ | ⟨b, g⟩ <;> rw [g]
    · exact h
    · simp
    · exact h
    · exact h
    · exact h

/-! ### The queues of `DEV_FIFO` -/

/-- The queues of a device are within their capacity (R180). -/
def queuesFit (depth : Nat) : Device → Prop
  | .abs _ => True
  | .regfile _ => True
  | .fifo f => f.rx.length ≤ f.cap depth ∧ f.tx.length ≤ f.cap depth

theorem queuesOk_iff (s : State) : queuesOk s ↔ queuesFit s.params.fifoDepth s.dev := by
  unfold queuesOk queuesFit
  cases s.dev <;> rfl

theorem queuesFit_write (r : WriteReg) (h : queuesFit depth d) : queuesFit depth (d.write depth r v n) := by
  cases d with
  | abs f => trivial
  | regfile f => trivial
  | fifo f =>
    cases r with
    | data =>
      change queuesFit depth (.fifo (f.writeData depth v))
      rcases f.writeData_cases depth v with ⟨e, hl⟩ | ⟨e, _⟩ <;> rw [e]
      · exact ⟨h.1, by simpa [FifoDev.cap] using hl⟩
      · exact h
    | fifoControl =>
      change (f.writeFcr v).rx.length ≤ (f.writeFcr v).cap depth ∧ (f.writeFcr v).tx.length ≤ (f.writeFcr v).cap depth
      rcases f.writeFcr_rx v with hr | ⟨hr, he⟩ <;> rcases f.writeFcr_tx v with ht | ⟨ht, he'⟩ <;> rw [hr, ht]
      · simp
      · exact ⟨Nat.zero_le _, by rw [f.writeFcr_cap depth v he']; exact h.2⟩
      · exact ⟨by rw [f.writeFcr_cap depth v he]; exact h.1, Nat.zero_le _⟩
      · rw [f.writeFcr_cap depth v he]; exact h
    | divisorLsb => exact h
    | divisorMsb => exact h
    | irqEnable => exact h
    | lineControl => exact h
    | modemControl => exact h

theorem queuesFit_read (r : ReadReg) (h : queuesFit depth d) : queuesFit depth (d.read r n).2 := by
  cases d with
  | abs f => cases r <;> exact h
  | regfile f => cases r <;> exact h
  | fifo f =>
    cases r <;> try exact h
    change queuesFit depth (.fifo f.readData.2)
    rcases f.readData_cases with ⟨b, r, hr, e⟩ | ⟨_, e⟩ <;> rw [e]
    · have := h.1
      rw [hr] at this
      exact ⟨by simp [FifoDev.cap] at this ⊢; omega, h.2⟩
    · exact h

theorem queuesFit_env (between : Bool) (e : EnvStep) (h : queuesFit depth d) :
    queuesFit depth (d.env depth between e) := by
  cases d with
  | abs f => trivial
  | regfile f => cases between <;> exact h
  | fifo f =>
    change queuesFit depth (.fifo (f.env depth e))
    rcases f.env_cases depth e with g | ⟨b, g, hl⟩ | g | ⟨b, t, ht, g⟩ | ⟨b, g⟩ <;> rw [g]
    · exact h
    · exact ⟨by simpa [FifoDev.cap] using hl, h.2⟩
    · exact h
    · have := h.2
      rw [ht] at this
      exact ⟨h.1, by simp [FifoDev.cap] at this ⊢; omega⟩
    · exact h

end Sys2Proof.Machine
end

