-- ==== Sys2Proof/Laws/State.lean ====
section
/-! SUPPORT. The small lemmas of the state updates: one per field per shared operation, true by `rfl`, so that later
proofs unfold no record update. -/

namespace Sys2Proof.Machine

variable (s : State)

/-! ### `goto` -/

@[simp] theorem goto_params (n : SeqState) : (goto n s).params = s.params := rfl
@[simp] theorem goto_st (n : SeqState) : (goto n s).st = n := rfl
@[simp] theorem goto_base (n : SeqState) : (goto n s).base = s.base := rfl
@[simp] theorem goto_inited (n : SeqState) : (goto n s).inited = s.inited := rfl
@[simp] theorem goto_val (n : SeqState) : (goto n s).val = s.val := rfl
@[simp] theorem goto_cnt (n : SeqState) : (goto n s).cnt = s.cnt := rfl
@[simp] theorem goto_port (n : SeqState) : (goto n s).port = s.port := rfl
@[simp] theorem goto_rsp (n : SeqState) : (goto n s).rsp = s.rsp := rfl
@[simp] theorem goto_rdata (n : SeqState) : (goto n s).rdata = s.rdata := rfl
@[simp] theorem goto_dev (n : SeqState) : (goto n s).dev = s.dev := rfl
@[simp] theorem goto_trace (n : SeqState) : (goto n s).trace = s.trace := rfl
@[simp] theorem goto_moves (n : SeqState) : (goto n s).moves = s.moves := rfl
@[simp] theorem goto_draws (n : SeqState) : (goto n s).draws = s.draws := rfl
@[simp] theorem goto_foreign (n : SeqState) : (goto n s).foreign = s.foreign := rfl

/-! ### `respond` -/

@[simp] theorem respond_params (c : Status) (b : Byte) : (respond c b s).params = s.params := rfl
@[simp] theorem respond_st (c : Status) (b : Byte) : (respond c b s).st = s.st := rfl
@[simp] theorem respond_base (c : Status) (b : Byte) : (respond c b s).base = s.base := rfl
@[simp] theorem respond_inited (c : Status) (b : Byte) : (respond c b s).inited = s.inited := rfl
@[simp] theorem respond_val (c : Status) (b : Byte) : (respond c b s).val = s.val := rfl
@[simp] theorem respond_cnt (c : Status) (b : Byte) : (respond c b s).cnt = s.cnt := rfl
@[simp] theorem respond_port (c : Status) (b : Byte) : (respond c b s).port = s.port := rfl
@[simp] theorem respond_rsp (c : Status) (b : Byte) : (respond c b s).rsp = s.rsp ++ [rspWord c b] := rfl
@[simp] theorem respond_rdata (c : Status) (b : Byte) : (respond c b s).rdata = s.rdata := rfl
@[simp] theorem respond_dev (c : Status) (b : Byte) : (respond c b s).dev = s.dev := rfl
@[simp] theorem respond_trace (c : Status) (b : Byte) : (respond c b s).trace = s.trace := rfl
@[simp] theorem respond_moves (c : Status) (b : Byte) : (respond c b s).moves = s.moves := rfl
@[simp] theorem respond_draws (c : Status) (b : Byte) : (respond c b s).draws = s.draws := rfl
@[simp] theorem respond_foreign (c : Status) (b : Byte) : (respond c b s).foreign = s.foreign := rfl

/-! ### `finish` -/

@[simp] theorem finish_params (c : Status) (b : Byte) : (finish c b s).params = s.params := rfl
@[simp] theorem finish_st (c : Status) (b : Byte) : (finish c b s).st = .idle := rfl
@[simp] theorem finish_base (c : Status) (b : Byte) : (finish c b s).base = s.base := rfl
@[simp] theorem finish_inited (c : Status) (b : Byte) : (finish c b s).inited = s.inited := rfl
@[simp] theorem finish_val (c : Status) (b : Byte) : (finish c b s).val = s.val := rfl
@[simp] theorem finish_cnt (c : Status) (b : Byte) : (finish c b s).cnt = s.cnt := rfl
@[simp] theorem finish_port (c : Status) (b : Byte) : (finish c b s).port = s.port := rfl
@[simp] theorem finish_rsp (c : Status) (b : Byte) : (finish c b s).rsp = s.rsp ++ [rspWord c b] := rfl
@[simp] theorem finish_rdata (c : Status) (b : Byte) : (finish c b s).rdata = s.rdata := rfl
@[simp] theorem finish_dev (c : Status) (b : Byte) : (finish c b s).dev = s.dev := rfl
@[simp] theorem finish_trace (c : Status) (b : Byte) : (finish c b s).trace = s.trace := rfl
@[simp] theorem finish_moves (c : Status) (b : Byte) : (finish c b s).moves = s.moves := rfl
@[simp] theorem finish_draws (c : Status) (b : Byte) : (finish c b s).draws = s.draws := rfl
@[simp] theorem finish_foreign (c : Status) (b : Byte) : (finish c b s).foreign = s.foreign := rfl

/-! ### `raise` -/

@[simp] theorem raise_params (f : Failure) : (raise f s).params = s.params := rfl
@[simp] theorem raise_st (f : Failure) : (raise f s).st = .idle := rfl
@[simp] theorem raise_base (f : Failure) : (raise f s).base = s.base := rfl
@[simp] theorem raise_inited (f : Failure) : (raise f s).inited = s.inited := rfl
@[simp] theorem raise_val (f : Failure) : (raise f s).val = s.val := rfl
@[simp] theorem raise_cnt (f : Failure) : (raise f s).cnt = s.cnt := rfl
@[simp] theorem raise_port (f : Failure) : (raise f s).port = s.port := rfl
@[simp] theorem raise_rsp (f : Failure) : (raise f s).rsp = s.rsp ++ [rspWord (failureStatus f) 0x00#8] := rfl
@[simp] theorem raise_rdata (f : Failure) : (raise f s).rdata = s.rdata := rfl
@[simp] theorem raise_dev (f : Failure) : (raise f s).dev = s.dev := rfl
@[simp] theorem raise_trace (f : Failure) : (raise f s).trace = s.trace := rfl
@[simp] theorem raise_moves (f : Failure) : (raise f s).moves = s.moves := rfl
@[simp] theorem raise_draws (f : Failure) : (raise f s).draws = s.draws := rfl
@[simp] theorem raise_foreign (f : Failure) : (raise f s).foreign = s.foreign := rfl

/-! ### `hold` -/

@[simp] theorem hold_params (w : Nat) : (hold w s).params = s.params := rfl
@[simp] theorem hold_st (w : Nat) : (hold w s).st = s.st := rfl
@[simp] theorem hold_base (w : Nat) : (hold w s).base = s.base := rfl
@[simp] theorem hold_inited (w : Nat) : (hold w s).inited = s.inited := rfl
@[simp] theorem hold_val (w : Nat) : (hold w s).val = s.val := rfl
@[simp] theorem hold_cnt (w : Nat) : (hold w s).cnt = s.cnt := rfl
@[simp] theorem hold_port (w : Nat) : (hold w s).port = s.port ++ [w] := rfl
@[simp] theorem hold_rsp (w : Nat) : (hold w s).rsp = s.rsp := rfl
@[simp] theorem hold_rdata (w : Nat) : (hold w s).rdata = s.rdata := rfl
@[simp] theorem hold_dev (w : Nat) : (hold w s).dev = s.dev := rfl
@[simp] theorem hold_trace (w : Nat) : (hold w s).trace = s.trace := rfl
@[simp] theorem hold_moves (w : Nat) : (hold w s).moves = s.moves := rfl
@[simp] theorem hold_draws (w : Nat) : (hold w s).draws = s.draws := rfl
@[simp] theorem hold_foreign (w : Nat) : (hold w s).foreign = s.foreign := rfl

/-! ### `record` -/

@[simp] theorem record_params (e : BusEvent) : (record e s).params = s.params := rfl
@[simp] theorem record_st (e : BusEvent) : (record e s).st = s.st := rfl
@[simp] theorem record_base (e : BusEvent) : (record e s).base = s.base := rfl
@[simp] theorem record_inited (e : BusEvent) : (record e s).inited = s.inited := rfl
@[simp] theorem record_val (e : BusEvent) : (record e s).val = s.val := rfl
@[simp] theorem record_cnt (e : BusEvent) : (record e s).cnt = s.cnt := rfl
@[simp] theorem record_port (e : BusEvent) : (record e s).port = s.port := rfl
@[simp] theorem record_rsp (e : BusEvent) : (record e s).rsp = s.rsp := rfl
@[simp] theorem record_rdata (e : BusEvent) : (record e s).rdata = s.rdata := rfl
@[simp] theorem record_dev (e : BusEvent) : (record e s).dev = s.dev := rfl
@[simp] theorem record_trace (e : BusEvent) : (record e s).trace = s.trace ++ [e] := rfl
@[simp] theorem record_moves (e : BusEvent) : (record e s).moves = s.moves := rfl
@[simp] theorem record_draws (e : BusEvent) : (record e s).draws = s.draws := rfl
@[simp] theorem record_foreign (e : BusEvent) : (record e s).foreign = s.foreign := rfl

/-! ### `deviceWrite` -/

@[simp] theorem deviceWrite_params (r : WriteReg) (off : Offset) (v : Byte) : (deviceWrite r off v s).params = s.params := rfl
@[simp] theorem deviceWrite_st (r : WriteReg) (off : Offset) (v : Byte) : (deviceWrite r off v s).st = s.st := rfl
@[simp] theorem deviceWrite_base (r : WriteReg) (off : Offset) (v : Byte) : (deviceWrite r off v s).base = s.base := rfl
@[simp] theorem deviceWrite_inited (r : WriteReg) (off : Offset) (v : Byte) : (deviceWrite r off v s).inited = s.inited := rfl
@[simp] theorem deviceWrite_val (r : WriteReg) (off : Offset) (v : Byte) : (deviceWrite r off v s).val = s.val := rfl
@[simp] theorem deviceWrite_cnt (r : WriteReg) (off : Offset) (v : Byte) : (deviceWrite r off v s).cnt = s.cnt := rfl
@[simp] theorem deviceWrite_port (r : WriteReg) (off : Offset) (v : Byte) : (deviceWrite r off v s).port = s.port := rfl
@[simp] theorem deviceWrite_rsp (r : WriteReg) (off : Offset) (v : Byte) : (deviceWrite r off v s).rsp = s.rsp := rfl
@[simp] theorem deviceWrite_rdata (r : WriteReg) (off : Offset) (v : Byte) : (deviceWrite r off v s).rdata = s.rdata := rfl
@[simp] theorem deviceWrite_dev (r : WriteReg) (off : Offset) (v : Byte) : (deviceWrite r off v s).dev = s.dev.write s.params.fifoDepth r v s.draws := rfl
@[simp] theorem deviceWrite_trace (r : WriteReg) (off : Offset) (v : Byte) : (deviceWrite r off v s).trace = s.trace ++ [.wr off v] := rfl
@[simp] theorem deviceWrite_moves (r : WriteReg) (off : Offset) (v : Byte) : (deviceWrite r off v s).moves = s.moves := rfl
@[simp] theorem deviceWrite_draws (r : WriteReg) (off : Offset) (v : Byte) : (deviceWrite r off v s).draws = s.draws + 1 := rfl
@[simp] theorem deviceWrite_foreign (r : WriteReg) (off : Offset) (v : Byte) : (deviceWrite r off v s).foreign = s.foreign := rfl

/-! ### `deviceRead` -/

@[simp] theorem deviceRead_params (r : ReadReg) (off : Offset) : (deviceRead r off s).params = s.params := rfl
@[simp] theorem deviceRead_st (r : ReadReg) (off : Offset) : (deviceRead r off s).st = s.st := rfl
@[simp] theorem deviceRead_base (r : ReadReg) (off : Offset) : (deviceRead r off s).base = s.base := rfl
@[simp] theorem deviceRead_inited (r : ReadReg) (off : Offset) : (deviceRead r off s).inited = s.inited := rfl
@[simp] theorem deviceRead_val (r : ReadReg) (off : Offset) : (deviceRead r off s).val = s.val := rfl
@[simp] theorem deviceRead_cnt (r : ReadReg) (off : Offset) : (deviceRead r off s).cnt = s.cnt := rfl
@[simp] theorem deviceRead_port (r : ReadReg) (off : Offset) : (deviceRead r off s).port = s.port := rfl
@[simp] theorem deviceRead_rsp (r : ReadReg) (off : Offset) : (deviceRead r off s).rsp = s.rsp := rfl
@[simp] theorem deviceRead_rdata (r : ReadReg) (off : Offset) : (deviceRead r off s).rdata = (s.dev.read r s.draws).1 := rfl
@[simp] theorem deviceRead_dev (r : ReadReg) (off : Offset) : (deviceRead r off s).dev = (s.dev.read r s.draws).2 := rfl
@[simp] theorem deviceRead_trace (r : ReadReg) (off : Offset) : (deviceRead r off s).trace = s.trace ++ [.rd off (s.dev.read r s.draws).1] := rfl
@[simp] theorem deviceRead_moves (r : ReadReg) (off : Offset) : (deviceRead r off s).moves = s.moves := rfl
@[simp] theorem deviceRead_draws (r : ReadReg) (off : Offset) : (deviceRead r off s).draws = s.draws + 1 := rfl
@[simp] theorem deviceRead_foreign (r : ReadReg) (off : Offset) : (deviceRead r off s).foreign = s.foreign := rfl

/-! ### `hostOffer` -/

@[simp] theorem hostOffer_params (w : Nat) : (hostOffer w s).params = s.params := rfl
@[simp] theorem hostOffer_st (w : Nat) : (hostOffer w s).st = s.st := rfl
@[simp] theorem hostOffer_base (w : Nat) : (hostOffer w s).base = s.base := rfl
@[simp] theorem hostOffer_inited (w : Nat) : (hostOffer w s).inited = s.inited := rfl
@[simp] theorem hostOffer_val (w : Nat) : (hostOffer w s).val = s.val := rfl
@[simp] theorem hostOffer_cnt (w : Nat) : (hostOffer w s).cnt = s.cnt := rfl
@[simp] theorem hostOffer_port (w : Nat) : (hostOffer w s).port = s.port ++ [w % 2 ^ (s.params.addrWidth + 2)] := rfl
@[simp] theorem hostOffer_rsp (w : Nat) : (hostOffer w s).rsp = s.rsp := rfl
@[simp] theorem hostOffer_rdata (w : Nat) : (hostOffer w s).rdata = s.rdata := rfl
@[simp] theorem hostOffer_dev (w : Nat) : (hostOffer w s).dev = s.dev := rfl
@[simp] theorem hostOffer_trace (w : Nat) : (hostOffer w s).trace = s.trace := rfl
@[simp] theorem hostOffer_moves (w : Nat) : (hostOffer w s).moves = s.moves := rfl
@[simp] theorem hostOffer_draws (w : Nat) : (hostOffer w s).draws = s.draws := rfl
@[simp] theorem hostOffer_foreign (w : Nat) : (hostOffer w s).foreign = s.foreign := rfl

/-! ### `hostTake` -/

@[simp] theorem hostTake_params : (hostTake s).params = s.params := rfl
@[simp] theorem hostTake_st : (hostTake s).st = s.st := rfl
@[simp] theorem hostTake_base : (hostTake s).base = s.base := rfl
@[simp] theorem hostTake_inited : (hostTake s).inited = s.inited := rfl
@[simp] theorem hostTake_val : (hostTake s).val = s.val := rfl
@[simp] theorem hostTake_cnt : (hostTake s).cnt = s.cnt := rfl
@[simp] theorem hostTake_port : (hostTake s).port = s.port := rfl
@[simp] theorem hostTake_rsp : (hostTake s).rsp = s.rsp.tail := rfl
@[simp] theorem hostTake_rdata : (hostTake s).rdata = s.rdata := rfl
@[simp] theorem hostTake_dev : (hostTake s).dev = s.dev := rfl
@[simp] theorem hostTake_trace : (hostTake s).trace = s.trace := rfl
@[simp] theorem hostTake_moves : (hostTake s).moves = s.moves := rfl
@[simp] theorem hostTake_draws : (hostTake s).draws = s.draws := rfl
@[simp] theorem hostTake_foreign : (hostTake s).foreign = s.foreign := rfl

/-! ### `deviceStep` -/

@[simp] theorem deviceStep_params (e : EnvStep) : (deviceStep e s).params = s.params := rfl
@[simp] theorem deviceStep_st (e : EnvStep) : (deviceStep e s).st = s.st := rfl
@[simp] theorem deviceStep_base (e : EnvStep) : (deviceStep e s).base = s.base := rfl
@[simp] theorem deviceStep_inited (e : EnvStep) : (deviceStep e s).inited = s.inited := rfl
@[simp] theorem deviceStep_val (e : EnvStep) : (deviceStep e s).val = s.val := rfl
@[simp] theorem deviceStep_cnt (e : EnvStep) : (deviceStep e s).cnt = s.cnt := rfl
@[simp] theorem deviceStep_port (e : EnvStep) : (deviceStep e s).port = s.port := rfl
@[simp] theorem deviceStep_rsp (e : EnvStep) : (deviceStep e s).rsp = s.rsp := rfl
@[simp] theorem deviceStep_rdata (e : EnvStep) : (deviceStep e s).rdata = s.rdata := rfl
@[simp] theorem deviceStep_dev (e : EnvStep) : (deviceStep e s).dev = s.dev.env s.params.fifoDepth (decide (s.st = .idle)) e := rfl
@[simp] theorem deviceStep_trace (e : EnvStep) : (deviceStep e s).trace = s.trace := rfl
@[simp] theorem deviceStep_moves (e : EnvStep) : (deviceStep e s).moves = s.moves := rfl
@[simp] theorem deviceStep_draws (e : EnvStep) : (deviceStep e s).draws = s.draws + 1 := rfl
@[simp] theorem deviceStep_foreign (e : EnvStep) : (deviceStep e s).foreign = s.foreign := rfl

/-! ### `controllerReset` -/

@[simp] theorem controllerReset_params : (controllerReset s).params = s.params := rfl
@[simp] theorem controllerReset_st : (controllerReset s).st = .idle := rfl
@[simp] theorem controllerReset_base : (controllerReset s).base = Config.freeAddr s.draws % 2 ^ s.params.addrWidth := rfl
@[simp] theorem controllerReset_inited : (controllerReset s).inited = false := rfl
@[simp] theorem controllerReset_val : (controllerReset s).val = Config.freeByte s.draws := rfl
@[simp] theorem controllerReset_cnt : (controllerReset s).cnt = Config.freeCount s.draws % 2 ^ cntWidth s.params.budget := rfl
@[simp] theorem controllerReset_port : (controllerReset s).port = s.port := rfl
@[simp] theorem controllerReset_rsp : (controllerReset s).rsp = [] := rfl
@[simp] theorem controllerReset_rdata : (controllerReset s).rdata = s.rdata := rfl
@[simp] theorem controllerReset_dev : (controllerReset s).dev = s.dev := rfl
@[simp] theorem controllerReset_trace : (controllerReset s).trace = [] := rfl
@[simp] theorem controllerReset_moves : (controllerReset s).moves = s.moves := rfl
@[simp] theorem controllerReset_draws : (controllerReset s).draws = s.draws + 1 := rfl
@[simp] theorem controllerReset_foreign : (controllerReset s).foreign = s.foreign := rfl

end Sys2Proof.Machine
end

