-- ==== Sys2Proof/Laws/Ops.lean ====
section
/-! SUPPORT. One lemma per shared operation that says once everything it can do: `andThen`, the window accesses at the
offsets the controller uses, the bus primitives, the sequencer rows, the commands. -/

namespace Sys2Proof.Machine

variable {s t : State}

/-! ### Sequencing -/

theorem andThen_next {o : Result} {k : State → Result} :
    andThen o k = .next t ↔ ∃ u, o = .next u ∧ k u = .next t := by
  cases o with
  | next u => simp [andThen]
  | fault r => simp [andThen]
  | refused r => simp [andThen]

@[simp] theorem andThen_of_next (k : State → Result) : andThen (.next s) k = k s := rfl

@[simp] theorem next_inj : (Host.Outcome.next s : Result) = .next t ↔ s = t := by simp

/-! ### The window accesses the controller makes (R161) -/

theorem windowWrite_data (v : Byte) :
    windowWrite offData v s = .next (deviceWrite (if s.dlab then .divisorLsb else .data) offData v s) := by
  unfold windowWrite execWrDivisorLsb execWrData
  cases s.dlab <;> rfl

theorem windowWrite_ier (v : Byte) :
    windowWrite offIer v s = .next (deviceWrite (if s.dlab then .divisorMsb else .irqEnable) offIer v s) := by
  unfold windowWrite execWrDivisorMsb execWrIrqEnable
  cases s.dlab <;> rfl

theorem windowWrite_fcr (v : Byte) : windowWrite offFcr v s = .next (deviceWrite .fifoControl offFcr v s) := rfl

theorem windowWrite_lcr (v : Byte) : windowWrite offLcr v s = .next (deviceWrite .lineControl offLcr v s) := rfl

theorem windowWrite_mcr (v : Byte) : windowWrite offMcr v s = .next (deviceWrite .modemControl offMcr v s) := rfl

theorem windowRead_data (lane : Byte) :
    windowRead offData lane s = .next (deviceRead (if s.dlab then .divisorLsb else .data) offData s) := by
  unfold windowRead execRdDivisorLsb execRdData
  cases s.dlab <;> rfl

theorem windowRead_lsr (lane : Byte) : windowRead offLsr lane s = .next (deviceRead .lineStatus offLsr s) := rfl

/-- A transaction word's access is its row's meaning under the DLAB of the moment (R77, R78). -/
theorem windowAccess_eq_exec (x : XactWord) : windowAccess x s = exec (decodeXact s.dlab x) s := by
  have h8 : ∀ o : Offset, o = 0 ∨ o = 1 ∨ o = 2 ∨ o = 3 ∨ o = 4 ∨ o = 5 ∨ o = 6 ∨ o = 7 := by decide
  unfold windowAccess decodeXact windowWrite windowRead
  generalize xactOff x = o
  rcases h8 o with rfl | rfl | rfl | rfl | rfl | rfl | rfl | rfl <;>
    cases xactRw x <;> cases s.dlab <;> rfl

/-! ### The premise on the window, and the controller's bus primitives (R51, R59, R66) -/

/-- Under a valid window the premise is no hindrance. -/
theorem underWindow_of {base : Nat} {k : State → Result} (h : windowAt s.params base) : underWindow base k s = k s := by
  simp [underWindow, h.1, h.1 ▸ h.2]

/-- Outside one it refuses, by one of two names (R51, R59). -/
theorem underWindow_refused {base : Nat} {k : State → Result} (h : ¬ windowAt s.params base) :
    underWindow base k s =
      .refused (if windowPassesTop s.params.addrWidth base then .windowWraps else .windowNotDevice) := by
  unfold underWindow windowAt at *
  by_cases hw : windowPassesTop s.params.addrWidth base = true
  · simp [hw]
  · by_cases hb : base = s.params.devBase
    · exact absurd ⟨hb, by simpa using hw⟩ h
    · simp [hw, hb]

/-- Everything it can do that answers a next state. -/
theorem underWindow_next {base : Nat} {k : State → Result} :
    underWindow base k s = .next t ↔ windowAt s.params base ∧ k s = .next t := by
  by_cases h : windowAt s.params base
  · rw [underWindow_of h]
    exact ⟨fun e => ⟨h, e⟩, fun e => e.2⟩
  · simp [underWindow_refused h, h]

/-- A request of the controller that answers a next state had a valid window (R51, R59). -/
theorem issue_next {r : BusReq} :
    issue r s = .next t ↔ windowValid s ∧ windowAccess (reqXact s.params.addrWidth s.base r) s = .next t :=
  underWindow_next

theorem regWrite_next {off : Offset} {v : Byte} :
    regWrite off v s = .next t ↔ windowValid s ∧ windowWrite off v s = .next t := by
  rw [regWrite, issue_next]
  refine and_congr_right fun h => ?_
  rw [reqXact_writeReq (offset_lt_of_fits h.2 off)]
  simp [windowAccess]

theorem regRead_next {off : Offset} :
    regRead off s = .next t ↔ windowValid s ∧ windowRead off 0x00#8 s = .next t := by
  rw [regRead, issue_next]
  refine and_congr_right fun h => ?_
  rw [reqXact_readReq (offset_lt_of_fits h.2 off)]
  simp [windowAccess]

/-- Outside a valid window every request is refused, by one of two names (R51, R59). -/
theorem issue_refused {r : BusReq} (h : ¬ windowValid s) :
    issue r s =
      .refused (if windowPassesTop s.params.addrWidth s.base then .windowWraps else .windowNotDevice) :=
  underWindow_refused h

/-! ### The rows of the initialisation sequence -/

theorem initWrite_next {off : Offset} {v : Byte} {n : SeqState} :
    initWrite off v n s = .next t ↔ windowValid s ∧ ∃ u, windowWrite off v s = .next u ∧ t = goto n u := by
  unfold initWrite
  rw [andThen_next]
  constructor
  · rintro ⟨u, h, e⟩
    rw [regWrite_next] at h
    exact ⟨h.1, u, h.2, (next_inj.mp e).symm⟩
  · rintro ⟨hv, u, h, rfl⟩
    exact ⟨u, regWrite_next.mpr ⟨hv, h⟩, rfl⟩

theorem execInit1_next : execInit1 s = .next t ↔ windowValid s ∧
    t = goto .init2 (deviceWrite (if s.dlab then .divisorMsb else .irqEnable) offIer ierOff s) := by
  simp [execInit1, initWrite_next, windowWrite_ier]

theorem execInit2_next : execInit2 s = .next t ↔ windowValid s ∧
    t = goto .init3a (deviceWrite .lineControl offLcr lcrDlab s) := by
  simp [execInit2, initWrite_next, windowWrite_lcr]

theorem execInit3a_next : execInit3a s = .next t ↔ windowValid s ∧
    t = goto .init3b (deviceWrite (if s.dlab then .divisorLsb else .data) offData dllInit s) := by
  simp [execInit3a, initWrite_next, windowWrite_data]

theorem execInit3b_next : execInit3b s = .next t ↔ windowValid s ∧
    t = goto .init4 (deviceWrite (if s.dlab then .divisorMsb else .irqEnable) offIer dlmInit s) := by
  simp [execInit3b, initWrite_next, windowWrite_ier]

theorem execInit4_next : execInit4 s = .next t ↔ windowValid s ∧
    t = goto .init5 (deviceWrite .lineControl offLcr lcr8n1 s) := by
  simp [execInit4, initWrite_next, windowWrite_lcr]

theorem execInit5_next : execInit5 s = .next t ↔ windowValid s ∧
    t = goto .init6 (deviceWrite .fifoControl offFcr fcrInit s) := by
  simp [execInit5, initWrite_next, windowWrite_fcr]

theorem execInit6_next : execInit6 s = .next t ↔ windowValid s ∧
    t = goto .init7 (deviceWrite .modemControl offMcr mcrInit s) := by
  simp [execInit6, initWrite_next, windowWrite_mcr]

theorem execInit7_next : execInit7 s = .next t ↔ windowValid s ∧
    t = finish .ok 0x00#8
      { deviceWrite (if s.dlab then .divisorMsb else .irqEnable) offIer ierRx s with inited := true } := by
  unfold execInit7
  rw [andThen_next]
  simp only [regWrite_next, windowWrite_ier, next_inj]
  constructor
  · rintro ⟨u, ⟨hv, rfl⟩, rfl⟩
    exact ⟨hv, rfl⟩
  · rintro ⟨hv, rfl⟩
    exact ⟨_, ⟨hv, rfl⟩, rfl⟩

/-! ### The polling unit and the data paths -/

/-- Everything a step of the polling unit can do: give up without a bus access, or poll once and branch on the byte
read (R121, R123). -/
theorem pollStep_next {mask : Byte} {h m : SeqState} {f : Failure} :
    pollStep mask h m f s = .next t ↔
      s.cnt = s.params.budget ∧ t = raise f s ∨
      s.cnt ≠ s.params.budget ∧ windowValid s ∧
        t = goto (if hit mask (deviceRead .lineStatus offLsr s).rdata then h else m)
          { deviceRead .lineStatus offLsr s with cnt := cntNext s.params.budget s.cnt } := by
  unfold pollStep poll
  split
  · next hc =>
    rw [next_inj]
    exact ⟨fun e => .inl ⟨hc, e.symm⟩, fun e => e.elim (fun e => e.2.symm) (fun e => absurd hc e.1)⟩
  · rw [andThen_next]
    simp only [regRead_next, windowRead_lsr, next_inj]
    constructor
    · rintro ⟨u, ⟨hv, rfl⟩, rfl⟩
      exact .inr ⟨‹_›, hv, rfl⟩
    · rintro (⟨h, _⟩ | ⟨_, hv, rfl⟩)
      · exact absurd h ‹_›
      · exact ⟨_, ⟨hv, rfl⟩, rfl⟩

theorem execTxwrite_next : execTxwrite s = .next t ↔ windowValid s ∧
    t = finish .ok 0x00#8 (deviceWrite (if s.dlab then .divisorLsb else .data) offData s.val s) := by
  unfold execTxwrite
  rw [andThen_next]
  simp only [regWrite_next, windowWrite_data, next_inj]
  constructor
  · rintro ⟨u, ⟨hv, rfl⟩, rfl⟩
    exact ⟨hv, rfl⟩
  · rintro ⟨hv, rfl⟩
    exact ⟨_, ⟨hv, rfl⟩, rfl⟩

theorem execRxread_next : execRxread s = .next t ↔ windowValid s ∧
    t = finish .ok (deviceRead (if s.dlab then .divisorLsb else .data) offData s).rdata
      (deviceRead (if s.dlab then .divisorLsb else .data) offData s) := by
  unfold execRxread
  rw [andThen_next]
  simp only [regRead_next, windowRead_data, next_inj]
  constructor
  · rintro ⟨u, ⟨hv, rfl⟩, rfl⟩
    exact ⟨hv, rfl⟩
  · rintro ⟨hv, rfl⟩
    exact ⟨_, ⟨hv, rfl⟩, rfl⟩

/-! ### Commands and the dispatch of IDLE -/

/-- A command word runs as the row it decodes to (R71). -/
theorem execCommand_eq_exec (w : Nat) : execCommand w s = exec (decodeCmd s.params.addrWidth w) s := by
  unfold execCommand decodeCmd
  cases cmdOp w <;> rfl

/-- Everything the acceptance of a CREATE can do in IDLE (R91, R51, R59). -/
theorem execCreate_idle (h : s.st = .idle) (arg : Nat) : execCreate arg s = .next t ↔
    windowAt s.params arg ∧ t = goto .init1 { s with base := arg, inited := false } := by
  rw [execCreate, whenIdle, if_pos h, underWindow_next]
  simp [createOperand, eq_comm]

/-- Everything the acceptance of a command can do in IDLE (R90). -/
theorem execCommand_idle (h : s.st = .idle) (w : Nat) : execCommand w s = .next t ↔
    cmdOp w = .create ∧ windowAt s.params (cmdArg s.params.addrWidth w) ∧
      t = goto .init1 { s with base := cmdArg s.params.addrWidth w, inited := false } ∨
    cmdOp w = .size ∧ t = finish .ok windowSize s ∨
    cmdOp w = .send ∧ s.inited = true ∧
      t = goto .txpoll { s with val := sendOperand (cmdArg s.params.addrWidth w), cnt := 0 } ∨
    cmdOp w = .recv ∧ s.inited = true ∧ t = goto .rxpoll { s with cnt := 0 } ∨
    (cmdOp w = .send ∨ cmdOp w = .recv) ∧ s.inited = false ∧ t = raise .notCreated s := by
  unfold execCommand
  cases cmdOp w
  · simp [execCreate_idle h]
  all_goals
    simp only [execSize, execSend, execRecv, whenIdle, h, if_true]
    cases s.inited <;> simp [eq_comm]

/-- Everything the dispatch can do: stay, with nothing offered (R98), or accept the oldest word (R90). -/
theorem execIdle_next : execIdle s = .next t ↔
    s.port = [] ∧ t = s ∨ ∃ w ws, s.port = w :: ws ∧ execCommand w { s with port := ws } = .next t := by
  unfold execIdle
  cases h : s.port with
  | nil => simp [eq_comm]
  | cons w ws => simp

end Sys2Proof.Machine
end

