-- ==== Sys2Proof/Laws/PerInstr.lean ====
section
/-! SUPPORT. Per instruction: its word fits the width of its format (R85). -/

namespace Sys2Proof.Laws

/-- The bits of a word of a format: `AW + 2`, 4 and 12 (R85). -/
def formatBits (aw : Nat) : Format → Nat
  | .cmd => aw + 2
  | .seq => 4
  | .xact => 12

/-- The word of an instruction whose operand fits `AW` bits fits its format. -/
def EncodeFits.Statement (i : Instr) : Prop :=
  ∀ aw, i.fitsWidth aw = true → encode i < 2 ^ formatBits aw i.format

theorem EncodeFits.create (arg : Nat) : EncodeFits.Statement (.create arg) := fun _ h => cmdWord_lt _ (of_decide_eq_true h)
theorem EncodeFits.size (arg : Nat) : EncodeFits.Statement (.size arg) := fun _ h => cmdWord_lt _ (of_decide_eq_true h)
theorem EncodeFits.send (arg : Nat) : EncodeFits.Statement (.send arg) := fun _ h => cmdWord_lt _ (of_decide_eq_true h)
theorem EncodeFits.recv (arg : Nat) : EncodeFits.Statement (.recv arg) := fun _ h => cmdWord_lt _ (of_decide_eq_true h)
theorem EncodeFits.idle : EncodeFits.Statement .idle := fun _ _ => by simp only [encode, Instr.format, formatBits]; decide
theorem EncodeFits.init1 : EncodeFits.Statement .init1 := fun _ _ => by simp only [encode, Instr.format, formatBits]; decide
theorem EncodeFits.init2 : EncodeFits.Statement .init2 := fun _ _ => by simp only [encode, Instr.format, formatBits]; decide
theorem EncodeFits.init3a : EncodeFits.Statement .init3a := fun _ _ => by simp only [encode, Instr.format, formatBits]; decide
theorem EncodeFits.init3b : EncodeFits.Statement .init3b := fun _ _ => by simp only [encode, Instr.format, formatBits]; decide
theorem EncodeFits.init4 : EncodeFits.Statement .init4 := fun _ _ => by simp only [encode, Instr.format, formatBits]; decide
theorem EncodeFits.init5 : EncodeFits.Statement .init5 := fun _ _ => by simp only [encode, Instr.format, formatBits]; decide
theorem EncodeFits.init6 : EncodeFits.Statement .init6 := fun _ _ => by simp only [encode, Instr.format, formatBits]; decide
theorem EncodeFits.init7 : EncodeFits.Statement .init7 := fun _ _ => by simp only [encode, Instr.format, formatBits]; decide
theorem EncodeFits.txpoll : EncodeFits.Statement .txpoll := fun _ _ => by simp only [encode, Instr.format, formatBits]; decide
theorem EncodeFits.txwrite : EncodeFits.Statement .txwrite := fun _ _ => by simp only [encode, Instr.format, formatBits]; decide
theorem EncodeFits.rxpoll : EncodeFits.Statement .rxpoll := fun _ _ => by simp only [encode, Instr.format, formatBits]; decide
theorem EncodeFits.rxread : EncodeFits.Statement .rxread := fun _ _ => by simp only [encode, Instr.format, formatBits]; decide
theorem EncodeFits.wrData (v : Byte) : EncodeFits.Statement (.wrData v) := fun _ _ => (xactWord true 0 v).isLt
theorem EncodeFits.rdData (lane : Byte) : EncodeFits.Statement (.rdData lane) := fun _ _ => (xactWord false 0 lane).isLt
theorem EncodeFits.wrDivisorLsb (v : Byte) : EncodeFits.Statement (.wrDivisorLsb v) := fun _ _ => (xactWord true 0 v).isLt
theorem EncodeFits.rdDivisorLsb (lane : Byte) : EncodeFits.Statement (.rdDivisorLsb lane) := fun _ _ => (xactWord false 0 lane).isLt
theorem EncodeFits.wrDivisorMsb (v : Byte) : EncodeFits.Statement (.wrDivisorMsb v) := fun _ _ => (xactWord true 1 v).isLt
theorem EncodeFits.rdDivisorMsb (lane : Byte) : EncodeFits.Statement (.rdDivisorMsb lane) := fun _ _ => (xactWord false 1 lane).isLt
theorem EncodeFits.wrIrqEnable (v : Byte) : EncodeFits.Statement (.wrIrqEnable v) := fun _ _ => (xactWord true 1 v).isLt
theorem EncodeFits.rdIrqEnable (lane : Byte) : EncodeFits.Statement (.rdIrqEnable lane) := fun _ _ => (xactWord false 1 lane).isLt
theorem EncodeFits.wrFifoControl (v : Byte) : EncodeFits.Statement (.wrFifoControl v) := fun _ _ => (xactWord true 2 v).isLt
theorem EncodeFits.rdIrqId (lane : Byte) : EncodeFits.Statement (.rdIrqId lane) := fun _ _ => (xactWord false 2 lane).isLt
theorem EncodeFits.wrLineControl (v : Byte) : EncodeFits.Statement (.wrLineControl v) := fun _ _ => (xactWord true 3 v).isLt
theorem EncodeFits.rdLineControl (lane : Byte) : EncodeFits.Statement (.rdLineControl lane) := fun _ _ => (xactWord false 3 lane).isLt
theorem EncodeFits.wrModemControl (v : Byte) : EncodeFits.Statement (.wrModemControl v) := fun _ _ => (xactWord true 4 v).isLt
theorem EncodeFits.rdModemControl (lane : Byte) : EncodeFits.Statement (.rdModemControl lane) := fun _ _ => (xactWord false 4 lane).isLt
theorem EncodeFits.rdLineStatus (lane : Byte) : EncodeFits.Statement (.rdLineStatus lane) := fun _ _ => (xactWord false 5 lane).isLt
theorem EncodeFits.wrLineStatus (v : Byte) : EncodeFits.Statement (.wrLineStatus v) := fun _ _ => (xactWord true 5 v).isLt
theorem EncodeFits.rdOffset6 (lane : Byte) : EncodeFits.Statement (.rdOffset6 lane) := fun _ _ => (xactWord false 6 lane).isLt
theorem EncodeFits.wrOffset6 (v : Byte) : EncodeFits.Statement (.wrOffset6 v) := fun _ _ => (xactWord true 6 v).isLt
theorem EncodeFits.rdOffset7 (lane : Byte) : EncodeFits.Statement (.rdOffset7 lane) := fun _ _ => (xactWord false 7 lane).isLt
theorem EncodeFits.wrOffset7 (v : Byte) : EncodeFits.Statement (.wrOffset7 v) := fun _ _ => (xactWord true 7 v).isLt

end Sys2Proof.Laws
end

