-- ==== Sys2Proof/Laws/Step.lean ====
section
/-! SUPPORT. What one step can do: the controller's rows, the moves of the other agents, and a foreign access. -/

namespace Sys2Proof.Machine

variable {s t : State}

/-- The state a step works on: the move it makes is taken off the list. -/
def popMove (s : State) : State := { s with moves := s.moves.tail }

@[simp] theorem popMove_params : (popMove s).params = s.params := rfl
@[simp] theorem popMove_st : (popMove s).st = s.st := rfl
@[simp] theorem popMove_base : (popMove s).base = s.base := rfl
@[simp] theorem popMove_inited : (popMove s).inited = s.inited := rfl
@[simp] theorem popMove_val : (popMove s).val = s.val := rfl
@[simp] theorem popMove_cnt : (popMove s).cnt = s.cnt := rfl
@[simp] theorem popMove_port : (popMove s).port = s.port := rfl
@[simp] theorem popMove_rsp : (popMove s).rsp = s.rsp := rfl
@[simp] theorem popMove_rdata : (popMove s).rdata = s.rdata := rfl
@[simp] theorem popMove_dev : (popMove s).dev = s.dev := rfl
@[simp] theorem popMove_trace : (popMove s).trace = s.trace := rfl
@[simp] theorem popMove_moves : (popMove s).moves = s.moves.tail := rfl
@[simp] theorem popMove_draws : (popMove s).draws = s.draws := rfl
@[simp] theorem popMove_foreign : (popMove s).foreign = s.foreign := rfl

theorem popMove_of_nil (h : s.moves = []) : popMove s = s := by
  cases s
  simp_all [popMove]

/-- It is the controller's turn: nothing is listed, or the controller is listed next. -/
def controllerTurn (s : State) : Prop := s.moves = [] ∨ ∃ rest, s.moves = .controller :: rest

/-- Everything a move that answers a next state can be. -/
theorem moveStep_next : moveStep s = .next t ↔
    controllerTurn s ∧ controllerStep (popMove s) = .next t ∨
    (∃ w rest, s.moves = .offer w :: rest ∧ hostOffer w (popMove s) = t) ∨
    (∃ rest, s.moves = .take :: rest ∧ hostTake (popMove s) = t) ∨
    (∃ e rest, s.moves = .env e :: rest ∧ deviceStep e (popMove s) = t) ∨
    (∃ rest, s.moves = .reset :: rest ∧ controllerReset (popMove s) = t) := by
  unfold moveStep controllerTurn
  cases h : s.moves with
  | nil => simp only [popMove_of_nil h, true_and, reduceCtorEq, false_and, exists_false, or_false]
  | cons m rest =>
    have e : ({ s with moves := rest } : State) = popMove s := by simp [popMove, h]
    cases m <;> simp [e]

/-- With no foreign request a step is an agent's move (R7). -/
theorem step_own (h : noOtherMaster s) : step s = moveStep s := by
  unfold step
  rw [h]

/-- With one, it is that access, and the request is gone. -/
theorem step_foreign {a : ForeignAccess} (h : s.foreign = some a) :
    step s = foreignStep a { s with foreign := none } := by
  unfold step
  rw [h]

/-- Everything a step that answers a next state can be. -/
theorem step_next : step s = .next t ↔
    noOtherMaster s ∧ moveStep s = .next t ∨
    ∃ a, s.foreign = some a ∧ foreignStep a { s with foreign := none } = .next t := by
  cases h : s.foreign with
  | none => simp [step_own (s := s) h, noOtherMaster, h]
  | some a => simp [step_foreign h, noOtherMaster, h]

/-- On the controller's turn the step is the controller's (R80). -/
theorem step_controllerTurn (hf : noOtherMaster s) (h : controllerTurn s) : step s = controllerStep (popMove s) := by
  rw [step_own hf]
  unfold moveStep
  rcases h with h | ⟨rest, h⟩
  · simp [h, popMove_of_nil h]
  · simp [h, popMove]

/-- A controller step in IDLE is the dispatch (R90). -/
theorem controllerStep_idle (h : s.st = .idle) : controllerStep s = execIdle s := by
  simp [controllerStep, h, SeqState.instr, exec]

/-- What the row of each sequencer state can lead to, from `s` to `t` (R80). -/
def rowLeads (st : SeqState) (s t : State) : Prop :=
    match st with
    | .idle => s.port = [] ∧ t = s ∨
        ∃ w ws, s.port = w :: ws ∧ execCommand w { s with port := ws } = .next t
    | .init1 => windowValid s ∧
        t = goto .init2 (deviceWrite (if s.dlab then .divisorMsb else .irqEnable) offIer ierOff s)
    | .init2 => windowValid s ∧ t = goto .init3a (deviceWrite .lineControl offLcr lcrDlab s)
    | .init3a => windowValid s ∧
        t = goto .init3b (deviceWrite (if s.dlab then .divisorLsb else .data) offData dllInit s)
    | .init3b => windowValid s ∧
        t = goto .init4 (deviceWrite (if s.dlab then .divisorMsb else .irqEnable) offIer dlmInit s)
    | .init4 => windowValid s ∧ t = goto .init5 (deviceWrite .lineControl offLcr lcr8n1 s)
    | .init5 => windowValid s ∧ t = goto .init6 (deviceWrite .fifoControl offFcr fcrInit s)
    | .init6 => windowValid s ∧ t = goto .init7 (deviceWrite .modemControl offMcr mcrInit s)
    | .init7 => windowValid s ∧ t = finish .ok 0x00#8
        { deviceWrite (if s.dlab then .divisorMsb else .irqEnable) offIer ierRx s with inited := true }
    | .txpoll => s.cnt = s.params.budget ∧ t = raise .transmitTimeout s ∨
        s.cnt ≠ s.params.budget ∧ windowValid s ∧
          t = goto (if hit lsrThre (deviceRead .lineStatus offLsr s).rdata then .txwrite else .txpoll)
            { deviceRead .lineStatus offLsr s with cnt := cntNext s.params.budget s.cnt }
    | .txwrite => windowValid s ∧
        t = finish .ok 0x00#8 (deviceWrite (if s.dlab then .divisorLsb else .data) offData s.val s)
    | .rxpoll => s.cnt = s.params.budget ∧ t = raise .receiveTimeout s ∨
        s.cnt ≠ s.params.budget ∧ windowValid s ∧
          t = goto (if hit lsrDr (deviceRead .lineStatus offLsr s).rdata then .rxread else .rxpoll)
            { deviceRead .lineStatus offLsr s with cnt := cntNext s.params.budget s.cnt }
    | .rxread => windowValid s ∧
        t = finish .ok (deviceRead (if s.dlab then .divisorLsb else .data) offData s).rdata
          (deviceRead (if s.dlab then .divisorLsb else .data) offData s)

/-- Everything a controller step can do, by the state it runs in (R80). -/
theorem controllerStep_next : controllerStep s = .next t ↔ rowLeads s.st s t := by
  unfold controllerStep
  cases h : s.st with
  | idle => exact execIdle_next
  | init1 => exact execInit1_next
  | init2 => exact execInit2_next
  | init3a => exact execInit3a_next
  | init3b => exact execInit3b_next
  | init4 => exact execInit4_next
  | init5 => exact execInit5_next
  | init6 => exact execInit6_next
  | init7 => exact execInit7_next
  | txpoll => exact pollStep_next
  | txwrite => exact execTxwrite_next
  | rxpoll => exact pollStep_next
  | rxread => exact execRxread_next

/-- A foreign access that answers a next state was a byte, in the window, with the controller idle
(R52, R59, R205 b). -/
theorem foreignStep_next {a : ForeignAccess} : foreignStep a s = .next t ↔
    a.size = 1 ∧ s.st = .idle ∧ addrSub s.params.addrWidth a.req.addr s.params.devBase < 8 ∧
      exec (decodeXact s.dlab (reqXact s.params.addrWidth s.params.devBase a.req)) s = .next t := by
  unfold foreignStep foreignRequest
  by_cases h1 : a.size = 1
  · by_cases h2 : s.st = .idle
    · generalize addrSub s.params.addrWidth a.req.addr s.params.devBase = k
      by_cases h3 : 8 ≤ k
      · simp [h1, h2, h3]
      · have : k < 8 := by omega
        simp [h1, h2, h3, this]
    · simp [h1, h2]
  · simp [h1]

/-! ### What a window access leaves alone -/

/-- A window access that answers a next state touches the device, the answer, the trace and the draws only
(43_register_access.md). -/
theorem exec_xact_frame {i : Instr} (hi : i.format = .xact) (h : exec i s = .next t) :
    t.params = s.params ∧ t.st = s.st ∧ t.base = s.base ∧ t.inited = s.inited ∧ t.val = s.val ∧ t.cnt = s.cnt ∧
    t.port = s.port ∧ t.rsp = s.rsp ∧ t.moves = s.moves ∧ t.foreign = s.foreign := by
  cases i <;> first
    | (cases hi; done)
    | (cases h; done)
    | (cases h; exact ⟨rfl, rfl, rfl, rfl, rfl, rfl, rfl, rfl, rfl, rfl⟩)

/-- A window access keeps the queues of `DEV_FIFO` within their capacity (R180). -/
theorem exec_xact_queuesFit {i : Instr} (hi : i.format = .xact) (h : exec i s = .next t)
    (hq : queuesFit s.params.fifoDepth s.dev) : queuesFit s.params.fifoDepth t.dev := by
  cases i <;> first
    | (cases hi; done)
    | (cases h; done)
    | (cases h; exact queuesFit_write _ _ _ _ _ hq)
    | (cases h; exact queuesFit_read _ _ _ _ hq)

/-! ### Runs -/

@[simp] theorem runFor_zero : runFor 0 s = .next s := rfl

theorem runFor_step {n : Nat} (h : step s = .next t) : runFor (n + 1) s = runFor n t := by
  simp [runFor, h]

theorem runFor_add {m n : Nat} (h : runFor m s = .next t) : runFor (m + n) s = runFor n t := by
  induction m generalizing s with
  | zero =>
    cases h
    rw [Nat.zero_add]
  | succ m ih =>
    rw [runFor, andThen_next] at h
    obtain ⟨u, hu, h⟩ := h
    rw [Nat.add_right_comm, runFor_step hu]
    exact ih h

/-- A controller's turn with nothing else listed, then `n` more steps. -/
theorem runFor_controller {n : Nat} {u : State} (hf : noOtherMaster s) (h : s.moves = []) (h1 : controllerStep s = .next u)
    (h2 : runFor n u = .next t) : runFor (n + 1) s = .next t := by
  rw [runFor_step (t := u) (by rw [step_controllerTurn hf (.inl h), popMove_of_nil h]; exact h1), h2]

end Sys2Proof.Machine
end

