-- ==== Sys2Proof/Machine/Text.lean ====
section
/-! DEFINITION. The textual syntax of commands, responses and traces (R82, R84; D21). It is used to write programs and
vectors; no step reads it. What the spec leaves open of it is assumption 23. -/

namespace Sys2Proof.Machine

/-! ### Numbers (00_scope.md section 5) -/

/-- The value of a digit in any base up to 16. -/
def digitValue (c : Char) : Option Nat :=
  let n := c.toNat
  if 48 ≤ n ∧ n ≤ 57 then some (n - 48)
  else if 97 ≤ n ∧ n ≤ 102 then some (n - 87)
  else if 65 ≤ n ∧ n ≤ 70 then some (n - 55)
  else none

/-- Digits after the ones read so far, all below the base. -/
def parseDigits (base : Nat) : List Char → Nat → Option Nat
  | [], acc => some acc
  | c :: cs, acc =>
    match digitValue c with
    | some d => if d < base then parseDigits base cs (acc * base + d) else none
    | none => none

/-- `0x..` hexadecimal, `0b..` binary, otherwise decimal. -/
def parseNumber : List Char → Option Nat
  | '0' :: 'x' :: c :: cs => parseDigits 16 (c :: cs) 0
  | '0' :: 'b' :: c :: cs => parseDigits 2 (c :: cs) 0
  | c :: cs => parseDigits 10 (c :: cs) 0
  | [] => none

/-- A number written `0x..`, in at least `width` digits. -/
def hexText (width n : Nat) : String :=
  let ds := Nat.toDigits 16 n
  "0x" ++ String.ofList (List.replicate (width - ds.length) '0' ++ ds.map Char.toUpper)

/-! ### Commands (R82) -/

/-- What follows a prefix. -/
def afterPrefix : List Char → List Char → Option (List Char)
  | [], cs => some cs
  | _ :: _, [] => none
  | p :: ps, c :: cs => if p = c then afterPrefix ps cs else none

/-- What stands before a closing parenthesis that ends the text. -/
def beforeClose (cs : List Char) : Option (List Char) :=
  if cs.getLast? = some ')' then some cs.dropLast else none

/-- The operand of a call `name(<number>)` or of the short form `short <number>`. -/
def parseOperand (name short : String) (cs : List Char) : Option Nat :=
  match afterPrefix (name ++ "(").toList cs with
  | some rest => (beforeClose rest).bind parseNumber
  | none => (afterPrefix (short ++ " ").toList cs).bind parseNumber

/-- A command line, in the document's form or the short form, as a command word. -/
def parseCommand (aw : Nat) (cs : List Char) : Option Nat :=
  if cs = "register_window_size()".toList ∨ cs = "size".toList then some (cmdWord .size 0)
  else if cs = "read_byte()".toList ∨ cs = "recv".toList then some (cmdWord .recv 0)
  else
    match parseOperand "create" "create" cs with
    | some n => if n < 2 ^ aw then some (cmdWord .create n) else none
    | none =>
      match parseOperand "send_byte" "send" cs with
      | some n => if n < 256 then some (cmdWord .send n) else none
      | none => none

/-- A command word in the short form. -/
def commandText (aw : Nat) (w : Nat) : String :=
  match cmdOp w with
  | .create => "create " ++ hexText 1 (cmdArg aw w)
  | .size => "size"
  | .send => "send " ++ hexText 2 (sendOperand (cmdArg aw w)).toNat
  | .recv => "recv"

/-- The lines of a text. -/
def textLines : List Char → List (List Char)
  | [] => [[]]
  | c :: cs =>
    match c == '\n', textLines cs with
    | true, ls => [] :: ls
    | false, l :: ls => (c :: l) :: ls
    | false, [] => [[c]]

/-- A program: one command a line (R82). -/
def parseProgram (aw : Nat) (cs : List Char) : Option (List Nat) := (textLines cs).mapM (parseCommand aw)

/-! ### Responses and traces (R82, R84) -/

/-- The response to a command: a byte for RECV, the number 8 for SIZE, the name of a failure. The reserved statuses
and InitError are never produced (R74). -/
def responseText (op : CmdOp) (w : RspWord) : Option String :=
  match rspStatus w, op with
  | some .ok, .create => some "-> Ok"
  | some .ok, .send => some "-> Ok"
  | some .ok, .size => some ("-> " ++ String.ofList (Nat.toDigits 10 (rspData w).toNat))
  | some .ok, .recv => some ("-> Ok(" ++ hexText 2 (rspData w).toNat ++ ")")
  | some .transmitTimeout, _ => some "-> TransmitTimeout"
  | some .receiveTimeout, _ => some "-> ReceiveTimeout"
  | some .notCreated, _ => some "-> NotCreated"
  | some .initError, _ => some "-> InitError"
  | none, _ => none

/-- A bus event with its offset: `W(off, data)` or `R(off) -> data`. -/
def eventText : BusEvent → String
  | .wr off v => "W(" ++ String.ofList (Nat.toDigits 10 off.toNat) ++ ", " ++ hexText 2 v.toNat ++ ")"
  | .rd off v => "R(" ++ String.ofList (Nat.toDigits 10 off.toNat) ++ ") -> " ++ hexText 2 v.toNat

/-- A trace: the events in the order performed, separated by commas. -/
def traceText : List BusEvent → String
  | [] => ""
  | [e] => eventText e
  | e :: es => eventText e ++ ", " ++ traceText es

/-- The name of the register an event reaches under the DLAB of the moment (R84, R78). Offsets 6 and 7 have none in the
document (R39) and appear as their number. A read of offset 2 reaches the interrupt identification (R78, C4), for which
the spec gives no register name; it takes the one name the register table has at the offset, FIFO_CONTROL (both are
DESIGN CHOICE, assumption 23). -/
def registerName (dlab : Bool) : BusEvent → String
  | .wr off _ | .rd off _ =>
    match off.toNat with
    | 0 => if dlab then "DIVISOR_LSB" else "DATA"
    | 1 => if dlab then "DIVISOR_MSB" else "IRQ_ENABLE"
    | 2 => "FIFO_CONTROL"
    | 3 => "LINE_CONTROL"
    | 4 => "MODEM_CONTROL"
    | 5 => "LINE_STATUS"
    | n => String.ofList (Nat.toDigits 10 n)

/-- DLAB after an event: a write of LINE_CONTROL carries it in bit 7 (R31). -/
def dlabAfter (dlab : Bool) : BusEvent → Bool
  | .wr off v => if off = offLcr then v.getLsbD 7 else dlab
  | .rd _ _ => dlab

/-- A trace with register names, from the DLAB the device held before it (R84). -/
def namedTraceText (dlab : Bool) : List BusEvent → List String
  | [] => []
  | e :: es =>
    (match e with
      | .wr _ v => "W(" ++ registerName dlab e ++ ", " ++ hexText 2 v.toNat ++ ")"
      | .rd _ v => "R(" ++ registerName dlab e ++ ") -> " ++ hexText 2 v.toNat)
    :: namedTraceText (dlabAfter dlab e) es

end Sys2Proof.Machine
end

