-- ==== Sys2Proof/Tests/Slice0.lean ====
section
/-! SUPPORT. The model's own tests. Expected values are the spec's: the tables of 95_test_vectors.md (named A, B or P
below) and the formulas of 30_encoding.md, or worked by hand from the rule named. The last part shows, for every
statement with hypotheses, a state and operands that meet them. -/

namespace Sys2Proof.Tests

open Sys2Proof.Machine

/-! ### Helpers -/

/-- What a projection gives of the next state, `none` for a fault or a refusal. -/
def after {α : Type} (o : Result) (f : State → α) : Option α :=
  match o with
  | .next s => some (f s)
  | .fault _ => none
  | .refused _ => none

/-- The reason a step was refused. -/
def refusal (o : Result) : Option Refusal :=
  match o with
  | .next _ => none
  | .fault _ => none
  | .refused r => some r

/-- `DEV_REGFILE` as CREATE leaves it (R175), with a status byte and a data byte. -/
def madeRegfile (lsr data : Byte) : RegFile :=
  { RegFile.start with data := data, dll := 0x03, ier := 0x01, fcr := 0xC7, lcr := 0x03, mcr := 0x0B, lsr := lsr }

/-- `DEV_FIFO` as CREATE leaves it (R194), with its two queues. -/
def madeFifo (rx tx : List Byte) : FifoDev :=
  { FifoDev.start 0x03 0x00 with
    ier := 0x01, lcr := 0x03, mcr := 0x0B, fifoEn := true, trig := .fourteen, rx := rx, tx := tx }

/-- A created controller over a device, in a sequencer state. -/
def made (dev : Device) (st : SeqState) : State :=
  { State.reset with st := st, base := 0x10000000, inited := true, dev := dev }

/-- A controller that is not created, over a device, in a sequencer state of CREATE. -/
def making (dev : Device) (st : SeqState) : State :=
  { State.reset with st := st, base := 0x10000000, dev := dev }

/-- `DEV_REGFILE` with DLAB 1 and otherwise zero. -/
def latched : RegFile := { RegFile.start with lcr := 0x80 }

/-! ### Well-formedness: one ill-formed term for each check -/

theorem test_read_lane_must_be_zero :
    Instr.wellFormed 64 (.rdData 0x01) = false ∧ Instr.wellFormed 64 (.rdDivisorLsb 0x80) = false ∧
    Instr.wellFormed 64 (.rdDivisorMsb 0x01) = false ∧ Instr.wellFormed 64 (.rdIrqEnable 0x01) = false ∧
    Instr.wellFormed 64 (.rdIrqId 0x01) = false ∧ Instr.wellFormed 64 (.rdLineControl 0x01) = false ∧
    Instr.wellFormed 64 (.rdModemControl 0x01) = false ∧ Instr.wellFormed 64 (.rdLineStatus 0x01) = false ∧
    Instr.wellFormed 64 (.rdOffset6 0xFF) = false ∧ Instr.wellFormed 64 (.rdOffset7 0x01) = false ∧
    Instr.wellFormed 64 (.rdData 0x00) = true := by decide

/-- A command's operand has `AW` bits (R70): in a 16-bit block 0x10000 is none. -/
theorem test_operand_must_fit :
    Instr.wellFormed 16 (.create 0x10000) = false ∧ Instr.wellFormed 16 (.size 0x10000) = false ∧
    Instr.wellFormed 16 (.send 0x10000) = false ∧ Instr.wellFormed 16 (.recv 0x10000) = false ∧
    Instr.wellFormed 16 (.create 0xFFFF) = true := by decide

/-- `AW >= 4`, `DEV_BASE <= 2^AW - 8` and `FIFO_DEPTH >= 1` (92_eei_decisions.md). -/
theorem test_params_checks :
    Params.wellFormed { Config.defaults with devBase := 0xFFFFFFFFFFFFFFF9 } = false ∧
    Params.wellFormed { Config.defaults with devBase := 0xFFFFFFFFFFFFFFF8 } = true ∧
    Params.wellFormed { Config.defaults with addrWidth := 3, devBase := 0 } = false ∧
    Params.wellFormed { Config.defaults with addrWidth := 4, devBase := 8 } = true ∧
    Params.wellFormed { Config.defaults with fifoDepth := 0 } = false ∧
    Params.wellFormed Config.defaults = true := by decide

/-! ### Decoding: a word of every constructor, from B1, R20, R76 and B3 -/

theorem test_decode_commands :
    decode 64 .cmd false 0x40000000 = .ok (.create 0x10000000) ∧
    decode 64 .cmd false 0x3FFFFFFFFFFFFFFE0 = .ok (.create 0xFFFFFFFFFFFFFFF8) ∧
    decode 64 .cmd false 0x48D1 = .ok (.size 0x1234) ∧
    decode 64 .cmd false 0x3FE = .ok (.send 0xFF) ∧ decode 64 .cmd false 0x506 = .ok (.send 0x141) ∧
    decode 64 .cmd false 0x3 = .ok (.recv 0) := by decide

theorem test_decode_states :
    decode 64 .seq false 0 = .ok .idle ∧ decode 64 .seq false 1 = .ok .init1 ∧ decode 64 .seq false 2 = .ok .init2 ∧
    decode 64 .seq false 3 = .ok .init3a ∧ decode 64 .seq false 4 = .ok .init3b ∧ decode 64 .seq false 5 = .ok .init4 ∧
    decode 64 .seq false 6 = .ok .init5 ∧ decode 64 .seq false 7 = .ok .init6 ∧ decode 64 .seq false 8 = .ok .init7 ∧
    decode 64 .seq false 9 = .ok .txpoll ∧ decode 64 .seq false 10 = .ok .txwrite ∧
    decode 64 .seq false 11 = .ok .rxpoll ∧ decode 64 .seq false 12 = .ok .rxread := by decide

theorem test_decode_banked_accesses :
    decode 64 .xact false 0x841 = .ok (.wrData 0x41) ∧ decode 64 .xact true 0x841 = .ok (.wrDivisorLsb 0x41) ∧
    decode 64 .xact false 0x000 = .ok (.rdData 0x00) ∧ decode 64 .xact true 0x000 = .ok (.rdDivisorLsb 0x00) ∧
    decode 64 .xact false 0x901 = .ok (.wrIrqEnable 0x01) ∧ decode 64 .xact true 0x901 = .ok (.wrDivisorMsb 0x01) ∧
    decode 64 .xact false 0x100 = .ok (.rdIrqEnable 0x00) ∧ decode 64 .xact true 0x100 = .ok (.rdDivisorMsb 0x00) := by
  decide

theorem test_decode_unbanked_accesses :
    decode 64 .xact true 0xAC7 = .ok (.wrFifoControl 0xC7) ∧ decode 64 .xact false 0x200 = .ok (.rdIrqId 0x00) ∧
    decode 64 .xact false 0xB80 = .ok (.wrLineControl 0x80) ∧ decode 64 .xact true 0x300 = .ok (.rdLineControl 0x00) ∧
    decode 64 .xact false 0xC0B = .ok (.wrModemControl 0x0B) ∧ decode 64 .xact false 0x400 = .ok (.rdModemControl 0x00) ∧
    decode 64 .xact false 0x500 = .ok (.rdLineStatus 0x00) ∧ decode 64 .xact false 0xD00 = .ok (.wrLineStatus 0x00) ∧
    decode 64 .xact true 0x600 = .ok (.rdOffset6 0x00) ∧ decode 64 .xact false 0xE55 = .ok (.wrOffset6 0x55) ∧
    decode 64 .xact false 0x700 = .ok (.rdOffset7 0x00) ∧ decode 64 .xact true 0xF55 = .ok (.wrOffset7 0x55) := by decide

/-- Numbers that are no word of their format are refused by name (R79 b, R85). -/
theorem test_decode_refuses :
    decode 64 .seq false 13 = .error .seqReserved ∧ decode 64 .seq false 15 = .error .seqReserved ∧
    decode 64 .seq false 16 = .error .seqTooWide ∧ decode 64 .xact false 0x1000 = .error .xactTooWide ∧
    decode 64 .cmd false (2 ^ 66) = .error .cmdTooWide ∧
    decode 16 .cmd false 0x3FFFF = .ok (.recv 0xFFFF) ∧ decode 16 .cmd false 0x40000 = .error .cmdTooWide := by decide

/-- Bytes are read with the first least significant. -/
theorem test_decode_bytes :
    decodeBytes 64 .cmd false [0x06, 0x01] = .ok (.send 0x41) ∧ decodeBytes 64 .xact false [0x00, 0x05] = .ok (.rdLineStatus 0x00) ∧
    decodeBytes 64 .seq false [] = .ok .idle := by decide

/-- B1: the words of the commands; R81: the words of the initialisation. -/
theorem test_encode :
    encode (.create 0x10000000) = 0x40000000 ∧ encode (.send 0x41) = 0x106 ∧ encode (.recv 0xFF) = 0x3FF ∧
    encode .rxread = 12 ∧ encode (.wrDivisorLsb 0x03) = 0x803 ∧ encode (.wrLineControl 0x80) = 0xB80 ∧
    encode (.rdLineStatus 0x00) = 0x500 := by decide

/-- The table's 37 rows, one of them matching each word (R86). -/
theorem test_rows :
    opcodeRows.length = 37 ∧ matchingRows .xact true 0x803 = [⟨"WR_DIVISOR_LSB", .xact, 0xF00, 0x800, some true⟩] ∧
    matchingRows .seq false 14 = [] ∧ matchingRows .cmd true 0x48D1 = [⟨"SIZE", .cmd, 0x3, 0x1, none⟩] := by decide

/-- Table words run as the next step's instruction. -/
theorem test_table_words :
    decodeTableWord 2 0x2 = some (.send 0) ∧ decodeTableWord 8 0x9 = some .txpoll ∧
    decodeTableWord 16 0x900 = some (.wrIrqEnable 0x00) ∧ decodeTableWord 72 0x48D1 = some (.size 0x1234) ∧
    decodeTableWord 8 0xD = none ∧
    after (step (State.reset.withFetchWord 2 0x1)) (·.rsp) = some [0x040] ∧
    after (step (State.reset.withFetchWord 8 0x0)) (fun t => (t.st, t.base)) = some (.init1, 0) ∧
    after (step (State.reset.withFetchWord 8 0xB)) (·.cnt) = some 1 ∧
    after (step (State.reset.withFetchWord 16 0xC0B)) (·.dev.mcr) = some 0x0B := by decide

/-! ### Words out of the controller: B2, R75, R84 -/

theorem test_responses :
    rspWord .ok 0x42 = 0x210 ∧ rspWord .ok 0xFF = 0x7F8 ∧ rspWord .ok 0x08 = 0x040 ∧
    rspWord .transmitTimeout 0 = 0x001 ∧ rspWord .receiveTimeout 0 = 0x002 ∧ rspWord .initError 0 = 0x003 ∧
    rspWord .notCreated 0 = 0x004 ∧ statusOf 5 = none ∧ rspStatus 0x210 = some .ok ∧ rspData 0x210 = 0x42 := by decide

/-- `rw` is the top bit and the write lane the low byte (R75). -/
theorem test_bus_words :
    busWord 64 (writeReq 64 0x10000000 offLcr 0x80) = (0b1#1 ++ 0x10000003#64 ++ 0x80#8).toNat ∧
    busWord 64 (readReq 64 0xFFFFFFFFFFFFFFF8 offLsr) = (0b0#1 ++ 0xFFFFFFFFFFFFFFFD#64 ++ 0x00#8).toNat ∧
    busWord 16 (writeReq 16 0x7FF8 offMcr 0x0B) = (0b1#1 ++ 0x7FFC#16 ++ 0x0B#8).toNat ∧
    eventWord (.wr 3 0x80) = 0xB80 ∧ eventWord (.rd 5 0x20) = 0x500 := by decide

/-- B3: the window at 0xFFFFFFFFFFFFFFF8 does not wrap, the one above it does. -/
theorem test_window_edge :
    windowPassesTop 64 0xFFFFFFFFFFFFFFF8 = false ∧ windowPassesTop 64 0xFFFFFFFFFFFFFFF9 = true ∧
    effAddr 64 0xFFFFFFFFFFFFFFFF 1 = 0 ∧ effAddr 16 0xFFFF 2 = 1 ∧ addrSub 16 1 0xFFFF = 2 ∧
    windowPassesTop 16 0xFFF8 = false ∧ windowPassesTop 16 0xFFF9 = true := by decide

/-- R3, R51: the topmost window of a 4-bit and of a 16-bit address space is reached at its own offsets. -/
theorem test_address_width :
    after (exec .init2 { making (.regfile RegFile.start) .init2 with params := ⟨4, 1000, 8, 16⟩, base := 8 })
      (fun t => (t.st, t.trace, t.dev.lcr)) = some (.init3a, [.wr 3 0x80], 0x80) ∧
    after (exec .init6 { making (.regfile RegFile.start) .init6 with params := ⟨16, 1000, 0xFFF8, 16⟩, base := 0xFFF8 })
      (fun t => (t.st, t.trace, t.dev.mcr)) = some (.init7, [.wr 4 0x0B], 0x0B) := by decide

/-- R4: 10 bits for 1000; one bit at least. -/
theorem test_counter_width :
    cntWidth 1000 = 10 ∧ cntWidth 0 = 1 ∧ cntWidth 1 = 1 ∧ cntWidth 2 = 2 ∧ cntWidth 1023 = 10 ∧ cntWidth 1024 = 11 := by
  decide

/-- R82 and B1: command lines in both forms. -/
theorem test_command_text :
    parseCommand 64 "create 0x10000000".toList = some 0x40000000 ∧
    parseCommand 64 "create(0x10000000)".toList = some 0x40000000 ∧ parseCommand 64 "send_byte(0x41)".toList = some 0x106 ∧
    parseCommand 64 "send 255".toList = some 0x3FE ∧ parseCommand 64 "send 0b1000001".toList = some 0x106 ∧
    parseCommand 64 "send 256".toList = none ∧ parseCommand 64 "register_window_size()".toList = some 0x1 ∧
    parseCommand 64 "read_byte()".toList = some 0x3 ∧ parseCommand 64 "flush".toList = none ∧
    parseProgram 64 "size\nrecv".toList = some [0x1, 0x3] ∧ commandText 64 0x506 = "send 0x41" := by decide

/-- R84 and A2: a trace, and the same with register names under the DLAB of the moment. -/
theorem test_trace_text :
    traceText [.rd 5 0x20, .wr 0 0x41] = "R(5) -> 0x20, W(0, 0x41)" ∧
    namedTraceText false [.wr 3 0x80, .wr 0 0x03] = ["W(LINE_CONTROL, 0x80)", "W(DIVISOR_LSB, 0x03)"] ∧
    responseText .recv 0x210 = some "-> Ok(0x42)" ∧ responseText .size 0x040 = some "-> 8" ∧
    responseText .send 0x001 = some "-> TransmitTimeout" ∧ responseText .send 0x005 = none := by decide

/-! ### Host commands: B6 -/

theorem test_create :
    after (exec (.create 0x10000000) (made (.regfile (madeRegfile 0 0)) .idle))
      (fun t => (t.st, t.base, t.inited, t.trace, t.rsp)) = some (.init1, 0x10000000, false, [], []) := by decide

/-- B3: a CREATE of another address than the device's, and one whose window wraps, is refused as it is accepted (R51, R59);
in a 16-bit block too (R3). -/
theorem test_create_outside :
    refusal (exec (.create 0) State.reset) = some .windowNotDevice ∧
    refusal (exec (.create 0xFFFFFFFFFFFFFFF9) State.reset) = some .windowWraps ∧
    refusal (exec (.create 0xFFFA) { State.reset with params := ⟨16, 1000, 0xFFF8, 16⟩ }) = some .windowWraps ∧
    after (exec (.create 0xFFF8) { State.reset with params := ⟨16, 1000, 0xFFF8, 16⟩ }) (fun t => (t.st, t.base)) =
      some (.init1, 0xFFF8) := by decide

theorem test_size :
    after (exec (.size 0x1234) State.reset) (fun t => (t.st, t.rsp, t.trace)) = some (.idle, [0x040], []) := by decide

theorem test_send :
    after (exec (.send 0x141) (made (.regfile (madeRegfile 0 0)) .idle)) (fun t => (t.st, t.val, t.cnt, t.rsp)) =
      some (.txpoll, 0x41, 0, []) ∧
    after (exec (.send 0x41) State.reset) (fun t => (t.st, t.val, t.rsp)) = some (.idle, 0x00, [0x004]) := by decide

theorem test_recv :
    after (exec (.recv 0xFF) (made (.regfile (madeRegfile 0 0)) .idle)) (fun t => (t.st, t.val, t.cnt)) =
      some (.rxpoll, 0x00, 0) ∧
    after (exec (.recv 0) State.reset) (fun t => (t.st, t.rsp)) = some (.idle, [0x004]) := by decide

/-- B6 rows 6 and 7: a command that comes while the controller is busy waits. -/
theorem test_busy_holds :
    after (exec (.send 0x41) (making (.regfile latched) .init3a)) (fun t => (t.st, t.port, t.inited)) =
      some (.init3a, [0x106], false) ∧
    after (exec (.recv 0) (made (.regfile (madeRegfile 0 0)) .txpoll)) (fun t => (t.st, t.port)) =
      some (.txpoll, [0x3]) := by decide

theorem test_idle :
    after (exec .idle { State.reset with port := [0x1, 0x3] }) (fun t => (t.st, t.port, t.rsp)) =
      some (.idle, [0x3], [0x040]) ∧
    after (exec .idle State.reset) (fun t => decide (t = State.reset)) = some true := by decide

/-! ### The initialisation sequence: B4, both tables -/

theorem test_init1 :
    after (exec .init1 (making (.regfile { RegFile.start with ier := 0x0F }) .init1))
      (fun t => (t.st, t.trace, t.dev.ier)) = some (.init2, [.wr 1 0x00], 0x00) ∧
    after (exec .init1 (making (.regfile { latched with ier := 0x0F, dlm := 0x01 }) .init1))
      (fun t => (t.trace, t.dev.ier, t.dev.dlm)) = some ([.wr 1 0x00], 0x0F, 0x00) := by decide

theorem test_init2 :
    after (exec .init2 (making (.regfile RegFile.start) .init2)) (fun t => (t.st, t.trace, t.dev.lcr, t.dlab)) =
      some (.init3a, [.wr 3 0x80], 0x80, true) := by decide

theorem test_init3a :
    after (exec .init3a (making (.regfile latched) .init3a)) (fun t => (t.st, t.trace, t.dev)) =
      some (.init3b, [.wr 0 0x03], .regfile { latched with dll := 0x03 }) := by decide

theorem test_init3b :
    after (exec .init3b (making (.regfile { latched with dlm := 0x01 }) .init3b)) (fun t => (t.st, t.trace, t.dev)) =
      some (.init4, [.wr 1 0x00], .regfile latched) := by decide

theorem test_init4 :
    after (exec .init4 (making (.regfile latched) .init4)) (fun t => (t.st, t.trace, t.dev.lcr, t.dlab)) =
      some (.init5, [.wr 3 0x03], 0x03, false) := by decide

theorem test_init5 :
    after (exec .init5 (making (.fifo { FifoDev.start 0 0 with rx := [0x11], tx := [0x99], tsr := some 0x77 }) .init5))
      (fun t => (t.st, t.trace, t.dev)) =
      some (.init6, [.wr 2 0xC7], .fifo { FifoDev.start 0 0 with fifoEn := true, trig := .fourteen, tsr := some 0x77 }) := by
  decide

theorem test_init6 :
    after (exec .init6 (making (.regfile RegFile.start) .init6)) (fun t => (t.st, t.trace, t.dev.mcr)) =
      some (.init7, [.wr 4 0x0B], 0x0B) := by decide

theorem test_init7 :
    after (exec .init7 (making (.regfile RegFile.start) .init7))
      (fun t => (t.st, t.inited, t.trace, t.rsp, t.dev.ier)) = some (.idle, true, [.wr 1 0x01], [0x000], 0x01) := by
  decide

/-- No run comes there, but the access checks its premise too (R59, R51). -/
theorem test_init1_outside :
    refusal (exec .init1 { making (.regfile RegFile.start) .init1 with base := 0 }) = some .windowNotDevice ∧
    refusal (exec .init1 { making (.regfile RegFile.start) .init1 with base := 0xFFFFFFFFFFFFFFF9 }) = some .windowWraps := by
  decide

/-! ### The polling unit and the data paths: B5 -/

/-- Rows 1, 6 and 8. -/
theorem test_txpoll :
    after (exec .txpoll (made (.regfile (madeRegfile 0x20 0)) .txpoll)) (fun t => (t.st, t.cnt, t.trace)) =
      some (.txwrite, 1, [.rd 5 0x20]) ∧
    after (exec .txpoll (made (.regfile (madeRegfile 0xDF 0)) .txpoll)) (fun t => (t.st, t.cnt, t.rsp)) =
      some (.txpoll, 1, []) ∧
    after (exec .txpoll { made (.regfile (madeRegfile 0x20 0)) .txpoll with cnt := 1000 })
      (fun t => (t.st, t.cnt, t.trace, t.rsp)) = some (.idle, 1000, [], [0x001]) := by decide

theorem test_txwrite :
    after (exec .txwrite { made (.regfile (madeRegfile 0x20 0)) .txwrite with val := 0x41 })
      (fun t => (t.st, t.trace, t.rsp, t.dev)) =
      some (.idle, [.wr 0 0x41], [0x000], .regfile (madeRegfile 0x20 0x41)) := by decide

/-- Rows 17, 19 and 18; the last allowed poll still counts (row 14). -/
theorem test_rxpoll :
    after (exec .rxpoll (made (.regfile (madeRegfile 0xFE 0)) .rxpoll)) (fun t => (t.st, t.cnt)) = some (.rxpoll, 1) ∧
    after (exec .rxpoll { made (.regfile (madeRegfile 0x9F 0)) .rxpoll with cnt := 999 })
      (fun t => (t.st, t.cnt, t.trace)) = some (.rxread, 1000, [.rd 5 0x9F]) ∧
    after (exec .rxpoll { made (.regfile (madeRegfile 0x01 0)) .rxpoll with cnt := 1000 })
      (fun t => (t.st, t.trace, t.rsp)) = some (.idle, [], [0x002]) := by decide

/-- Row 12, and B8 row 13: the head of the queue, not the byte that came after the poll. -/
theorem test_rxread :
    after (exec .rxread (made (.regfile (madeRegfile 0x01 0x42)) .rxread)) (fun t => (t.st, t.trace, t.rsp)) =
      some (.idle, [.rd 0 0x42], [0x210]) ∧
    after (exec .rxread (made (.fifo (madeFifo [0x11, 0x99] [])) .rxread)) (fun t => (t.rsp, t.dev)) =
      some ([0x088], .fifo { madeFifo [0x99] [] with last := 0x11 }) := by decide

/-! ### Window accesses: R172, R173, B7, B8 -/

theorem test_wrData :
    after (exec (.wrData 0x41) (made (.fifo (madeFifo [] [0x01])) .idle)) (fun t => (t.trace, t.dev)) =
      some ([.wr 0 0x41], .fifo (madeFifo [] [0x01, 0x41])) ∧
    after (exec (.wrData 0x41) (making (.fifo { FifoDev.start 0 0 with tx := [0x01] }) .idle)) (·.dev) =
      some (.fifo { FifoDev.start 0 0 with tx := [0x01] }) := by decide

theorem test_rdData :
    after (exec (.rdData 0) (made (.fifo (madeFifo [0x68, 0x69] [])) .idle)) (fun t => (t.rdata, t.dev)) =
      some (0x68, .fifo { madeFifo [0x69] [] with last := 0x68 }) ∧
    after (exec (.rdData 0) (made (.fifo { madeFifo [] [] with last := 0x69 }) .idle)) (·.rdata) = some 0x69 := by decide

theorem test_wrDivisorLsb :
    after (exec (.wrDivisorLsb 0x0C) (making (.regfile latched) .idle)) (fun t => (t.trace, t.dev)) =
      some ([.wr 0 0x0C], .regfile { latched with dll := 0x0C }) := by decide

theorem test_rdDivisorLsb :
    after (exec (.rdDivisorLsb 0) (making (.fifo { FifoDev.start 0x0C 0x01 with lcr := 0x80, rx := [0x11] }) .idle))
      (fun t => (t.rdata, t.trace, t.dev)) =
      some (0x0C, [.rd 0 0x0C], .fifo { FifoDev.start 0x0C 0x01 with lcr := 0x80, rx := [0x11] }) := by decide

theorem test_wrDivisorMsb :
    after (exec (.wrDivisorMsb 0x01) (making (.regfile { latched with ier := 0x0F }) .idle)) (fun t => (t.trace, t.dev)) =
      some ([.wr 1 0x01], .regfile { latched with ier := 0x0F, dlm := 0x01 }) := by decide

theorem test_rdDivisorMsb :
    after (exec (.rdDivisorMsb 0) (making (.fifo { FifoDev.start 0x0C 0x01 with lcr := 0x80 }) .idle)) (·.rdata) =
      some 0x01 := by decide

theorem test_wrIrqEnable :
    after (exec (.wrIrqEnable 0xFF) (made (.fifo (madeFifo [] [])) .idle)) (fun t => (t.trace, t.dev.ier)) =
      some ([.wr 1 0xFF], 0x0F) ∧
    after (exec (.wrIrqEnable 0xFF) (made (.regfile (madeRegfile 0 0)) .idle)) (·.dev.ier) = some 0xFF := by decide

theorem test_rdIrqEnable :
    after (exec (.rdIrqEnable 0) (made (.regfile (madeRegfile 0 0)) .idle)) (fun t => (t.rdata, t.trace)) =
      some (0x01, [.rd 1 0x01]) := by decide

/-- A change of the enable clears both queues, trigger code 0b10 is 8 (R183); without a change each is cleared by its
own bit. -/
theorem test_wrFifoControl :
    after (exec (.wrFifoControl 0x81) (making (.fifo { FifoDev.start 0 0 with rx := [0x11], tx := [0x22] }) .idle))
      (fun t => (t.trace, t.dev)) =
      some ([.wr 2 0x81], .fifo { FifoDev.start 0 0 with fifoEn := true, trig := .eight }) ∧
    after (exec (.wrFifoControl 0x43) (made (.fifo (madeFifo [0x11] [0x22])) .idle)) (·.dev) =
      some (.fifo { madeFifo [] [0x22] with trig := .four }) := by decide

/-- B8 rows 8 and 9. -/
theorem test_rdIrqId :
    after (exec (.rdIrqId 0) (made (.fifo (madeFifo (List.replicate 13 0x55) [])) .idle)) (·.rdata) = some 0xC1 ∧
    after (exec (.rdIrqId 0) (made (.fifo (madeFifo (List.replicate 14 0x55) [])) .idle)) (·.rdata) = some 0xC4 := by decide

theorem test_wrLineControl :
    after (exec (.wrLineControl 0x9B) (made (.fifo (madeFifo [] [])) .idle)) (fun t => (t.trace, t.dev.lcr, t.dlab)) =
      some ([.wr 3 0x9B], 0x9B, true) := by decide

theorem test_rdLineControl :
    after (exec (.rdLineControl 0) (making (.regfile latched) .idle)) (fun t => (t.rdata, t.trace)) =
      some (0x80, [.rd 3 0x80]) := by decide

theorem test_wrModemControl :
    after (exec (.wrModemControl 0xFF) (made (.fifo (madeFifo [] [])) .idle)) (fun t => (t.trace, t.dev.mcr)) =
      some ([.wr 4 0xFF], 0x1F) := by decide

theorem test_rdModemControl :
    after (exec (.rdModemControl 0) (made (.regfile (madeRegfile 0 0)) .idle)) (fun t => (t.rdata, t.trace)) =
      some (0x0B, [.rd 4 0x0B]) := by decide

/-- B8 row 12: the overrun is answered once; P2: the schedule moves on by one read. -/
theorem test_rdLineStatus :
    after (exec (.rdLineStatus 0) (made (.fifo { madeFifo (List.replicate 16 0x55) [] with oe := true }) .idle))
      (fun t => (t.rdata, t.dev)) = some (0x63, .fifo (madeFifo (List.replicate 16 0x55) [])) ∧
    after (exec (.rdLineStatus 0) (made (.regfile { madeRegfile 0x00 0 with later := [0x00, 0x21] }) .idle))
      (fun t => (t.rdata, t.dev)) = some (0x00, .regfile { madeRegfile 0x00 0 with later := [0x21] }) := by decide

theorem test_rdOffset6 :
    after (exec (.rdOffset6 0) (made (.regfile (madeRegfile 0x21 0x42)) .idle)) (fun t => (t.rdata, t.trace)) =
      some (0x00, [.rd 6 0x00]) := by decide

theorem test_rdOffset7 :
    after (exec (.rdOffset7 0) (made (.fifo (madeFifo [0x11] [])) .idle)) (fun t => (t.rdata, t.dev)) =
      some (0x00, .fifo (madeFifo [0x11] [])) := by decide

/-- B3: refused. -/
theorem test_refused_writes :
    refusal (exec (.wrLineStatus 0x00) State.reset) = some .writeLineStatus ∧
    refusal (exec (.wrOffset6 0x55) State.reset) = some .writeOffset6 ∧
    refusal (exec (.wrOffset7 0x55) State.reset) = some .writeOffset7 := by decide

/-! ### The devices: B8 -/

/-- The whole table of status bytes. -/
theorem test_fifo_status :
    (madeFifo [] []).lsr = 0x60 ∧ (madeFifo [0x05] []).lsr = 0x61 ∧ (madeFifo [] [0x01]).lsr = 0x00 ∧
    (FifoDev.lsr { madeFifo [] [0x01] with tsr := some 0x07 }) = 0x00 ∧
    (FifoDev.lsr { madeFifo [] [] with tsr := some 0x07 }) = 0x20 ∧
    (FifoDev.lsr { madeFifo [0x05] [0x01] with tsr := some 0x07 }) = 0x01 ∧
    (FifoDev.lsr { madeFifo (List.replicate 16 0) [] with oe := true }) = 0x63 ∧
    (FifoDev.lsr { madeFifo [] [] with tsr := some 0x07, oe := true }) = 0x22 := by decide

/-- Rows 5 and 11. -/
theorem test_fifo_moves :
    FifoDev.env 16 .txLoad (madeFifo [] [0x41, 0x42]) = { madeFifo [] [0x42] with tsr := some 0x41 } ∧
    FifoDev.env 16 .txDone { madeFifo [] [] with tsr := some 0x41 } = { madeFifo [] [] with lineOut := [0x41] } ∧
    FifoDev.env 16 (.rxArrive 0x99) (madeFifo (List.replicate 16 0x55) []) =
      { madeFifo (List.replicate 16 0x55) [] with oe := true } ∧
    FifoDev.env 16 (.rxArrive 0x99) (madeFifo [0x11] []) = madeFifo [0x11, 0x99] [] := by decide

/-- Rows 8, 9 and 14. -/
theorem test_fifo_irq :
    (madeFifo (List.replicate 13 0x55) []).irq = false ∧ (madeFifo (List.replicate 14 0x55) []).irq = true ∧
    FifoDev.irq { madeFifo (List.replicate 14 0x55) [] with mcr := 0x03 } = false := by decide

/-- R147 and R149 on the abstract device: only bit 0 enables, and a clear leaves nothing pending. -/
theorem test_abs_irq :
    AbsDev.irq true { AbsDev.powerOn with ier := 0x12, mcr := 0x08, rxEmpty := false } = false ∧
    AbsDev.irq true { AbsDev.powerOn with ier := 0x01, mcr := 0x08, rxEmpty := false } = true ∧
    AbsDev.irq true (AbsDev.writeFcr 0xC7 { AbsDev.powerOn with ier := 0x01, mcr := 0x08, rxEmpty := false }) = false ∧
    (AbsDev.writeFcr 0xC7 { AbsDev.powerOn with dr := true }).dr = false := by decide

/-- R141, R142 on the abstract device: an access in order, after a status byte that showed the bit (R155). -/
theorem test_abs_data :
    AbsDev.writeData 0x41 0 (AbsDev.readStatus 0x20 { AbsDev.powerOn with thre := false, lcr := 0x03 }) =
      { AbsDev.powerOn with thr := 0x41, thre := false, lcr := 0x03 } ∧
    AbsDev.readData 0x42 0 (AbsDev.readStatus 0x01 AbsDev.powerOn) =
      { AbsDev.powerOn with rbr := 0x42, thre := false, rxEmpty := false } := by decide

/-! ### Steps of the other agents -/

/-- B6 row 8 and B9: the device keeps DLAB through a controller reset (B4 case d). -/
theorem test_reset_move :
    after (step { making (.regfile latched) .init3b with moves := [.reset], rsp := [0x000], trace := [.wr 3 0x80] })
      (fun t => ((t.st, t.inited, t.rsp), t.trace, t.dlab, t.moves)) = some ((.idle, false, []), [], true, []) := by decide

theorem test_host_moves :
    after (step { State.reset with moves := [.offer 0x1, .controller], port := [0x3] }) (fun t => (t.port, t.moves)) =
      some ([0x3, 0x1], [.controller]) ∧
    after (step { State.reset with moves := [.take], rsp := [0x040, 0x004] }) (·.rsp) = some [0x004] := by decide

/-- R174: the test acts between commands only. -/
theorem test_test_moves :
    after (step { made (.regfile (madeRegfile 0x00 0)) .idle with moves := [.env .setThre] }) (·.dev) =
      some (.regfile (madeRegfile 0x20 0)) ∧
    after (step { made (.regfile (madeRegfile 0x00 0)) .txpoll with moves := [.env .setThre] }) (·.dev) =
      some (.regfile (madeRegfile 0x00 0)) := by decide

/-- B3 and U6: what a foreign request may be. -/
theorem test_foreign_access :
    after (step { State.reset with foreign := some ⟨{ write := true, addr := 0x10000003, wdata := 0x80 }, 1⟩ })
      (fun t => (t.dlab, t.foreign)) = some (true, none) ∧
    refusal (step { State.reset with foreign := some ⟨{ write := false, addr := 0x10000005, wdata := 0 }, 4⟩ }) =
      some .wideAccess ∧
    refusal (step { State.reset with foreign := some ⟨{ write := false, addr := 0x10000008, wdata := 0 }, 1⟩ }) =
      some .addressNotDevice ∧
    refusal (step { State.reset with foreign := some ⟨{ write := false, addr := 0x0FFFFFFF, wdata := 0 }, 1⟩ }) =
      some .addressNotDevice ∧
    refusal (step { State.reset with st := .txpoll, foreign := some ⟨{ write := false, addr := 0x10000000, wdata := 0 }, 1⟩ }) =
      some .unserialisedAccess := by decide

/-! ### Witnesses: the hypotheses of the statements can be met

`witness_<Name>` is about the statement `Obligations.<Name>`. -/

/-- A created controller over `DEV_FIFO` with one byte received and none queued: the states of a SEND or RECV. -/
def fifoState (st : SeqState) : State := { made (.fifo (madeFifo [0x68] [])) st with val := 0x41 }

/-- The same in CREATE, its device as far as the sequence has come at INIT1 (nothing is asked of it there). -/
def createState : State := making (.fifo { FifoDev.start 0x0C 0x01 with lcr := 0x9B, rx := [0x11] }) .init1

theorem runInv_fifoState (st : SeqState) (h : initState st = false) : RunInv (fifoState st) where
  params := by show Params.wellFormed Config.defaults = true; decide
  exclusive := rfl
  widths := ⟨by show 0x10000000 < 2 ^ 64; decide, by simp [fifoState, made, State.reset]⟩
  counter := ⟨by show 0 < 2 ^ cntWidth 1000; decide, fun _ => Nat.zero_le _⟩
  inited := ⟨fun _ => rfl, fun e => by simp [fifoState, made, h] at e⟩
  window := ⟨fun _ => ⟨rfl, by show windowPassesTop 64 0x10000000 = false; decide⟩,
    fun e => by simp [fifoState, made, h] at e⟩
  program := by
    refine ⟨?_, fun _ => ⟨⟨rfl, rfl⟩, rfl, ⟨rfl, rfl⟩, rfl, rfl⟩⟩
    cases st <;> trivial
  queues := ⟨by show 1 ≤ FifoDev.cap 16 (madeFifo [0x68] []); decide, Nat.zero_le _⟩
  handshake := ⟨fun _ => rfl, fun _ => by simp [fifoState, made, receiveReady, madeFifo]⟩

theorem runInv_createState : RunInv createState where
  params := by unfold paramsOk; decide
  exclusive := rfl
  widths := ⟨by decide, by decide⟩
  counter := ⟨by decide, by decide⟩
  inited := ⟨by decide, by decide⟩
  window := ⟨(fun h => nomatch h), fun _ => ⟨rfl, by decide⟩⟩
  program := ⟨trivial, (fun h => nomatch h)⟩
  queues := ⟨by decide, by decide⟩
  handshake := ⟨(fun h => nomatch h), (fun h => nomatch h)⟩

/-- A created controller over the abstract device, at the access that follows a hit. -/
def absState (st : SeqState) : State :=
  made (.abs { AbsDev.powerOn with
    dll := 0x03, ier := 0x01, fcr := 0xC7, lcr := 0x03, mcr := 0x0B, dr := true, rxEmpty := false }) st

theorem runInv_absState (st : SeqState) (h : initState st = false) : RunInv (absState st) where
  params := by show Params.wellFormed Config.defaults = true; decide
  exclusive := rfl
  widths := ⟨by show 0x10000000 < 2 ^ 64; decide, by simp [absState, made, State.reset]⟩
  counter := ⟨by show 0 < 2 ^ cntWidth 1000; decide, fun _ => Nat.zero_le _⟩
  inited := ⟨fun _ => rfl, fun e => by simp [absState, made, h] at e⟩
  window := ⟨fun _ => ⟨rfl, by show windowPassesTop 64 0x10000000 = false; decide⟩,
    fun e => by simp [absState, made, h] at e⟩
  program := by
    refine ⟨?_, fun _ => ⟨⟨rfl, rfl⟩, rfl, rfl, rfl, rfl⟩⟩
    cases st <;> trivial
  queues := trivial
  handshake := ⟨fun _ => rfl, fun _ => rfl⟩

/-- A window at the very top of the address space is valid (B3). -/
def topState (st : SeqState) : State :=
  { making (.regfile RegFile.start) st with
    base := 0xFFFFFFFFFFFFFFF8, params := { Config.defaults with devBase := 0xFFFFFFFFFFFFFFF8 } }

theorem windowValid_topState (st : SeqState) : windowValid (topState st) :=
  ⟨rfl, by show windowPassesTop 64 0xFFFFFFFFFFFFFFF8 = false; decide⟩

theorem windowValid_fifoState (st : SeqState) : windowValid (fifoState st) :=
  ⟨rfl, by show windowPassesTop 64 0x10000000 = false; decide⟩

theorem witness_DecodeOfEncodeIsTheInstruction :
    (Instr.fitsWidth 64 (.wrData 0x41) = true ∧ Instr.fitsDlab (.wrData 0x41) false = true) ∧
    (Instr.fitsWidth 4 (.rdDivisorMsb 0xFF) = true ∧ Instr.fitsDlab (.rdDivisorMsb 0xFF) true = true) ∧
    (Instr.fitsWidth 64 (.create 0xFFFFFFFFFFFFFFFF) = true ∧ Instr.fitsDlab (.create 0xFFFFFFFFFFFFFFFF) true = true) ∧
    Instr.fitsWidth 16 (.create 0xFFFF) = true := by decide

theorem witness_EncodeOfDecodeIsTheWord :
    (∃ i, decode 64 .cmd false (2 ^ 66 - 1) = .ok i) ∧ (∃ i, decode 16 .cmd false (2 ^ 18 - 1) = .ok i) ∧ (∃ i, decode 64 .seq true 12 = .ok i) ∧
    (∃ i, decode 64 .xact true 0xFFF = .ok i) := ⟨⟨_, rfl⟩, ⟨_, rfl⟩, ⟨_, rfl⟩, ⟨_, rfl⟩⟩

theorem witness_EveryWordMatchesExactlyItsRow :
    (∃ i, decode 64 .xact true 0x1FF = .ok i) ∧ (∃ i, decode 64 .seq false 0 = .ok i) ∧ (∃ i, decode 64 .cmd false 3 = .ok i) ∧
    (13 ≤ 15 ∧ 15 < 16) := ⟨⟨_, rfl⟩, ⟨_, rfl⟩, ⟨_, rfl⟩, by decide⟩

theorem witness_DlabSelectsTheRegister : (xactOff 0x9FF).toNat < 2 ∧ 2 ≤ (xactOff 0xA00).toNat := by decide

theorem witness_ResponseWordHoldsStatusAndByte : 5 ≤ (5#3).toNat ∧ 5 ≤ (7#3).toNat := by decide

theorem witness_StepRunsTheRowOfSt :
    (State.reset.foreign = none ∧ decode 64 .seq State.reset.dlab State.reset.st.code = .ok .idle ∧
      State.reset.params.addrWidth = 64 ∧ State.reset.moves = []) ∧
    ((State.withSeqState State.reset .rxread).foreign = none ∧
      (State.withSeqState State.reset .rxread).params.addrWidth = 64 ∧
      decode 64 .seq (State.withSeqState State.reset .rxread).dlab (State.withSeqState State.reset .rxread).st.code =
        .ok .rxread ∧
      (State.withSeqState State.reset .rxread).moves = .controller :: []) := by decide

theorem witness_IdleRunsTheDecodedCommand :
    State.reset.port = [] ∧ (State.withCommand State.reset 0x106).port = 0x106 :: [] ∧
    decode (State.withCommand State.reset 0x106).params.addrWidth .cmd (State.withCommand State.reset 0x106).dlab 0x106 =
      .ok (.send 0x41) := by decide

/-- CREATE words: the device's address, one above it, and one whose window wraps. -/
theorem witness_IdleAcceptsTheOldestCommand :
    (State.withCommand State.reset 0x40000000).st = .idle ∧
    (State.withCommand State.reset 0x40000000).port = 0x40000000 :: [] ∧
    (0x40000000 % 4 = 0 ∧ 0x40000000 / 4 % 2 ^ 64 + 7 < 2 ^ 64 ∧ 0x40000000 / 4 % 2 ^ 64 = State.reset.params.devBase) ∧
    (0x40000020 % 4 = 0 ∧ 0x40000020 / 4 % 2 ^ 64 + 7 < 2 ^ 64 ∧ 0x40000020 / 4 % 2 ^ 64 ≠ State.reset.params.devBase) ∧
    (0x3FFFFFFFFFFFFFFE4 % 4 = 0 ∧ 2 ^ 64 ≤ 0x3FFFFFFFFFFFFFFE4 / 4 % 2 ^ 64 + 7) ∧
    0x1 % 4 = 1 ∧ (0x106 % 4 = 2 ∧ (fifoState .idle).inited = true) ∧ 0x3 % 4 = 3 ∧
    (2 ≤ 0x3 % 4 ∧ State.reset.inited = false) := by decide

theorem witness_OtherMasterRunsTheDecodedAccess :
    4 ≤ (State.withAccess State.reset 0x700).params.addrWidth ∧
    (State.withAccess State.reset 0x700).foreign = some {
      req := { write := false, addr := (State.reset.params.devBase + (7#3).toNat) % 2 ^ 64, wdata := 0x00 }, size := 1 } ∧
    (State.withAccess State.reset 0x700).st = .idle ∧
    decode 64 .xact (State.withAccess State.reset 0x700).dlab (xactWord false 7 0x00).toNat = .ok (.rdOffset7 0x00) := by
  decide

/-- For CreateIsAccepted and SizeAnswersEight: each clause at a boundary of its range. -/
theorem witness_CreateIsAccepted :
    State.reset.st = .idle ∧ 2 ^ State.reset.params.addrWidth ≤ 0xFFFFFFFFFFFFFFF9 + 7 ∧
    (0xFFFFFFFFFFFFFFF8 + 7 < 2 ^ State.reset.params.addrWidth ∧ 0xFFFFFFFFFFFFFFF8 ≠ State.reset.params.devBase) ∧
    (0x10000000 + 7 < 2 ^ State.reset.params.addrWidth ∧ 0x10000000 = State.reset.params.devBase) ∧
    0x48D1 % 4 = 1 := by decide

theorem witness_ControllerRequestReachesItsOffset : 4 ≤ 4 ∧ 4 ≤ 64 := by decide

theorem witness_SendAndRecvAreAccepted : (fifoState .idle).st = .idle ∧ (fifoState .idle).inited = true := by decide

theorem witness_UseBeforeCreateAnswersNotCreated : State.reset.st = .idle ∧ State.reset.inited = false := by decide

theorem witness_BusyControllerHoldsCommands :
    createState.st ≠ .idle ∧ 0x106 < 2 ^ (createState.params.addrWidth + 2) ∧
    ∃ t, controllerStep createState = .next t := ⟨by decide, by decide, _, rfl⟩

theorem witness_InitRows :
    (windowValid (topState .init1) ∧ (topState .init1).dlab = false) ∧
    (windowValid { topState .init3a with dev := .regfile latched } ∧
    State.dlab { topState .init3a with dev := .regfile latched } = true) :=
  ⟨⟨windowValid_topState .init1, rfl⟩, windowValid_topState .init3a, rfl⟩

theorem witness_AccessOutsideTheWindowStops :
    2 ^ 64 ≤ 0xFFFFFFFFFFFFFFF9 + 7 ∧
    (0xFFFFFFFFFFFFFFF8 + 7 < 2 ^ 64 ∧ 0xFFFFFFFFFFFFFFF8 ≠ Config.defaults.devBase) ∧
    (fifoState .txpoll).cnt ≠ (fifoState .txpoll).params.budget := by decide

theorem witness_TxpollPollsOrGivesUp :
    (∃ t, controllerStep { fifoState .idle with port := [0x106] } = .next t ∧ t.st = .txpoll) ∧
    (∃ t, controllerStep (made (.fifo (madeFifo [] [0x01])) .txpoll) = .next t ∧ t.st = .txpoll) ∧
    State.cnt { fifoState .txpoll with cnt := 1000 } = (fifoState .txpoll).params.budget ∧
    (State.cnt { fifoState .txpoll with cnt := 999 } < (fifoState .txpoll).params.budget ∧
      windowValid { fifoState .txpoll with cnt := 999 }) :=
  ⟨⟨_, rfl, rfl⟩, ⟨_, rfl, rfl⟩, rfl, by decide, windowValid_fifoState .txpoll⟩

theorem witness_TxwriteWritesValOnce :
    (∃ t, controllerStep (fifoState .txpoll) = .next t ∧ t.st = .txwrite) ∧
    windowValid (fifoState .txwrite) ∧ (fifoState .txwrite).dlab = false :=
  ⟨⟨_, rfl, rfl⟩, windowValid_fifoState .txwrite, rfl⟩

theorem witness_RxpollPollsOrGivesUp :
    (∃ t, controllerStep { fifoState .idle with port := [0x3] } = .next t ∧ t.st = .rxpoll) ∧
    (∃ t, controllerStep (made (.fifo (madeFifo [] [])) .rxpoll) = .next t ∧ t.st = .rxpoll) ∧
    State.cnt { fifoState .rxpoll with cnt := 1000 } = (fifoState .rxpoll).params.budget ∧
    (State.cnt { fifoState .rxpoll with cnt := 999 } < (fifoState .rxpoll).params.budget ∧
      windowValid { fifoState .rxpoll with cnt := 999 }) :=
  ⟨⟨_, rfl, rfl⟩, ⟨_, rfl, rfl⟩, rfl, by decide, windowValid_fifoState .rxpoll⟩

theorem witness_RxreadAnswersTheByteRead :
    (∃ t, controllerStep (fifoState .rxpoll) = .next t ∧ t.st = .rxread) ∧
    windowValid (fifoState .rxread) ∧ (fifoState .rxread).dlab = false ∧
    ((fifoState .rxread).dev = .fifo (madeFifo [0x68] []) ∧ (madeFifo [0x68] []).rx = 0x68 :: []) :=
  ⟨⟨_, rfl, rfl⟩, windowValid_fifoState .rxread, rfl, rfl, rfl⟩

theorem witness_PollTestsOneBit :
    (0x20 : Byte).getLsbD 5 = (0xFF : Byte).getLsbD 5 ∧ (0xFE : Byte).getLsbD 0 = (0x00 : Byte).getLsbD 0 := by decide

theorem witness_CounterNeverWraps : 2 ≤ cntWidth 2 ∧ 999 < 1000 := by decide

/-- For OnlyLineControlChangesDlab, and the two clauses of the rows of each device: a control write of a device just
powered on, and a DATA write of the abstract device in order. -/
theorem witness_OnlyLineControlChangesDlab :
    (∃ t, exec (.wrLineControl 0x80) State.reset = .next t) ∧
    (Instr.format (.wrIrqEnable 0x01) = .xact ∧ (∀ v, Instr.wrIrqEnable 0x01 ≠ .wrLineControl v) ∧
      (∀ d, State.reset.dev = .abs d → (∀ v, Instr.wrIrqEnable 0x01 = .wrData v → d.thre = true) ∧
        (∀ lane, Instr.wrIrqEnable 0x01 = .rdData lane → d.dr = true)) ∧
      ∃ t, exec (.wrIrqEnable 0x01) State.reset = .next t) ∧
    (∀ d, State.reset.dev = .abs d → (∀ v, Instr.wrData 0x41 = .wrData v → d.thre = true) ∧
      (∀ lane, Instr.wrData 0x41 = .rdData lane → d.dr = true)) :=
  ⟨⟨_, rfl⟩, ⟨rfl, fun _ h => (nomatch h), fun _ _ => ⟨fun _ h => (nomatch h), fun _ h => (nomatch h)⟩, _, rfl⟩,
    fun _ h => ⟨fun _ _ => by cases h; rfl, fun _ h => (nomatch h)⟩⟩

/-- For WrDataHandsTheByteOver, WrFifoControlSetsUpTheQueues, ControlReadsKeepTheDevice, RdLineStatusAnswersTheStatus,
RdDataAnswersAByte and InterruptIsEnabledAndRouted: a state of each device, with the queues and the schedule their
clauses name. -/
theorem witness_devices :
    (∃ d, State.reset.dev = .abs d ∧ d.thre = true ∧ d.dr = false ∧ d.rxEmpty = true) ∧
    (∃ d, (absState .rxread).dev = .abs d ∧ d.dr = true) ∧
    (∃ d, State.dev { State.reset with dev := .abs { AbsDev.powerOn with thre := false } } = .abs d ∧ d.thre = false) ∧
    (∃ d x xs, (made (.regfile { madeRegfile 0 0 with later := [0x21] }) .idle).dev = .regfile d ∧ d.later = x :: xs) ∧
    (∃ d, (made (.regfile (madeRegfile 0x20 0)) .idle).dev = .regfile d ∧ d.later = []) ∧
    (∃ d x xs, (fifoState .idle).dev = .fifo d ∧ d.rx = x :: xs) ∧
    (∃ d, (made (.fifo (madeFifo [] [])) .idle).dev = .fifo d ∧ d.rx = []) ∧
    State.reset.dev.ier.getLsbD 0 = false ∧ State.reset.dev.mcr.getLsbD 3 = false :=
  ⟨⟨_, rfl, rfl, rfl, rfl⟩, ⟨_, rfl, rfl⟩, ⟨_, rfl, rfl⟩, ⟨_, _, _, rfl, rfl⟩, ⟨_, rfl, rfl⟩, ⟨_, _, _, rfl, rfl⟩, ⟨_, rfl, rfl⟩, rfl, rfl⟩

theorem witness_RegfileWritesByOffset :
    (∃ d, (made (.regfile (madeRegfile 0 0)) .idle).dev = .regfile d) ∧ (4#3).toNat < 5 ∧ 5 ≤ (5#3).toNat ∧
    (∃ t d', exec (decodeXact (made (.regfile (madeRegfile 0 0)) .idle).dlab (xactWord true 4 0x0B))
      (made (.regfile (madeRegfile 0 0)) .idle) = .next t ∧ t.dev = .regfile d') :=
  ⟨⟨_, rfl⟩, by decide, by decide, _, _, rfl, rfl⟩

theorem witness_FifoMovesByItself :
    State.foreign { fifoState .idle with moves := [.env (.rxArrive 0x69)] } = none ∧
    (∃ d, State.dev { fifoState .idle with moves := [.env (.rxArrive 0x69)] } = .fifo d) ∧
    (∃ e, State.moves { fifoState .idle with moves := [.env (.rxArrive 0x69)] } = .env e :: [] ∧ e = .rxArrive 0x69) ∧
    ((madeFifo [] [0x41]).tsr = none ∧ (madeFifo [] [0x41]).tx = 0x41 :: []) ∧ (madeFifo [] []).tx = [] ∧
    FifoDev.tsr { madeFifo [] [] with tsr := some 0x41 } = some 0x41 ∧
    (EnvStep.setThre ≠ .txLoad ∧ EnvStep.setThre ≠ .txDone ∧ ∀ b, EnvStep.setThre ≠ .rxArrive b) :=
  ⟨rfl, ⟨_, rfl⟩, ⟨_, rfl, rfl⟩, ⟨rfl, rfl⟩, rfl, rfl, by decide, by decide, fun _ h => (nomatch h)⟩

theorem witness_TestActsOnRegfile :
    State.foreign { made (.regfile (madeRegfile 0 0)) .idle with moves := [.env .setThre] } = none ∧
    (∃ d, State.dev { made (.regfile (madeRegfile 0 0)) .idle with moves := [.env .setThre] } = .regfile d) ∧
    State.moves { made (.regfile (madeRegfile 0 0)) .idle with moves := [.env .setThre] } = .env .setThre :: [] ∧
    (made (.regfile (madeRegfile 0 0)) .idle).st = .idle ∧ (made (.regfile (madeRegfile 0 0)) .rxpoll).st ≠ .idle :=
  ⟨rfl, ⟨_, rfl⟩, rfl, rfl, by decide⟩

theorem witness_AbstractDeviceMovesUnseen :
    State.foreign { State.reset with moves := [.env .txDone] } = none ∧
    (∃ d, State.dev { State.reset with moves := [.env .txDone] } = .abs d) ∧
    State.moves { State.reset with moves := [.env .txDone] } = .env .txDone :: [] := ⟨rfl, ⟨_, rfl⟩, rfl⟩

theorem witness_FifoTransmitsInOrder :
    (madeFifo [] []).tx.length < (madeFifo [] []).cap 1 ∧ (madeFifo [] []).rx.length < (madeFifo [] []).cap 1 := by decide

theorem witness_HostOffersAndTakes :
    State.foreign { State.reset with moves := [.offer 0x1] } = none ∧
    State.foreign { State.reset with moves := [.take] } = none ∧
    State.moves { State.reset with moves := [.offer 0x1] } = .offer 0x1 :: [] ∧
    State.moves { State.reset with moves := [.take] } = .take :: [] := by decide

theorem witness_ResetForgetsTheHandle :
    State.foreign { createState with moves := [.reset, .controller] } = none ∧
    State.moves { createState with moves := [.reset, .controller] } = .reset :: [.controller] := by decide

theorem witness_OtherMasterMustKeepThePremises :
    (∃ t, step State.reset = .next t) ∧
    State.foreign { State.reset with foreign := some ⟨{ write := false, addr := 0x10000008, wdata := 0 }, 1⟩ } =
      some ⟨{ write := false, addr := 0x10000008, wdata := 0 }, 1⟩ ∧
    4 ≠ 1 ∧ createState.st ≠ .idle ∧
    (State.reset.st = .idle ∧ 8 ≤ addrSub 64 0x10000008 State.reset.params.devBase) ∧
    8 ≤ addrSub 64 0x0FFFFFFF State.reset.params.devBase := ⟨⟨_, rfl⟩, by decide⟩

/-- For RunInvariantIsKept: a step of the controller in each kind of command, and over the abstract device. -/
theorem witness_RunInvariantIsKept :
    (RunInv (fifoState .txpoll) ∧ ∃ t, step (fifoState .txpoll) = .next t) ∧
    (RunInv (absState .rxread) ∧ ∃ t, step (absState .rxread) = .next t) ∧
    (RunInv createState ∧ ∃ t, step createState = .next t) :=
  ⟨⟨runInv_fifoState .txpoll rfl, _, rfl⟩, ⟨runInv_absState .rxread rfl, _, rfl⟩, runInv_createState, _, rfl⟩

theorem witness_ControllerInvariantIsKept :
    paramsOk createState ∧ widthsOk createState ∧ counterOk createState ∧ initedOk createState ∧ windowOk createState ∧
    queuesOk createState ∧ ∃ t, step createState = .next t :=
  ⟨runInv_createState.params, runInv_createState.widths, runInv_createState.counter, runInv_createState.inited,
    runInv_createState.window, runInv_createState.queues, _, rfl⟩

/-- In INIT1, and in IDLE with a CREATE of the device's address at the port. -/
theorem witness_ControllerAlwaysSteps :
    (RunInv createState ∧ createState.st ≠ .idle) ∧
    (RunInv { fifoState .idle with port := [0x40000000] } ∧
      0x40000000 / 4 % 2 ^ 64 = (State.params { fifoState .idle with port := [0x40000000] }).devBase) :=
  ⟨⟨runInv_createState, by decide⟩,
    { runInv_fifoState .idle rfl with widths := ⟨by show 0x10000000 < 2 ^ 64; decide, by decide⟩ }, by decide⟩

theorem witness_DlabStaysClearAfterCreate :
    RunInv (fifoState .txwrite) ∧ (fifoState .txwrite).inited = true ∧ ∃ t, step (fifoState .txwrite) = .next t :=
  ⟨runInv_fifoState .txwrite rfl, rfl, _, rfl⟩

/-- For OneResponseEndsEachCommand and ControllerMakesOnlyItsAccesses: both branches. -/
theorem witness_OneResponseEndsEachCommand :
    (∃ t, controllerStep { State.reset with port := [0x1] } = .next t ∧ t.st = .idle ∧
      State.port { State.reset with port := [0x1] } ≠ []) ∧
    (∃ t, controllerStep (fifoState .txpoll) = .next t ∧ t.st ≠ .idle) :=
  ⟨⟨_, rfl, rfl, by decide⟩, _, rfl, by decide⟩

/-- One state for each named result. -/
theorem witness_ResponsesAreNamedResults :
    (∃ t, step { State.reset with port := [0x1] } = .next t ∧ t.rsp = State.reset.rsp ++ [0x040]) ∧
    (∃ t, step { fifoState .txpoll with cnt := 1000 } = .next t ∧ t.rsp = (fifoState .txpoll).rsp ++ [0x001]) ∧
    (∃ t, step { fifoState .rxpoll with cnt := 1000 } = .next t ∧ t.rsp = (fifoState .rxpoll).rsp ++ [0x002]) ∧
    (∃ t, step { State.reset with port := [0x3] } = .next t ∧ t.rsp = State.reset.rsp ++ [0x004]) :=
  ⟨⟨_, rfl, rfl⟩, ⟨_, rfl, rfl⟩, ⟨_, rfl, rfl⟩, ⟨_, rfl, rfl⟩⟩

/-- A CREATE writes `base` where a reset left another value. -/
theorem witness_OnlyCreateWritesBase :
    ∃ t, step { State.reset with port := [0x40000000] } = .next t ∧ t.base ≠ State.reset.base :=
  ⟨_, rfl, by decide⟩

theorem witness_OnlySendWritesVal :
    ∃ t, controllerStep { fifoState .idle with port := [0x36] } = .next t ∧ t.val ≠ (fifoState .idle).val :=
  ⟨_, rfl, by decide⟩

theorem witness_EveryCommandEnds :
    (RunInv (fifoState .txpoll) ∧ (fifoState .txpoll).st ≠ .idle) ∧
    (∃ t, controllerStep { fifoState .idle with port := [0x3] } = .next t) ∧
    (RunInv { fifoState .txwrite with moves := [.env .txLoad, .controller] } ∧
      State.moves { fifoState .txwrite with moves := [.env .txLoad, .controller] } = .env .txLoad :: [.controller] ∧
      .reset ∉ State.moves { fifoState .txwrite with moves := [.env .txLoad, .controller] } ∧
      stepsLeft { fifoState .txwrite with moves := [.env .txLoad, .controller] } ≤
        (State.moves { fifoState .txwrite with moves := [.env .txLoad, .controller] }).count .controller) :=
  ⟨⟨runInv_fifoState .txpoll rfl, by decide⟩, ⟨_, rfl⟩,
    { runInv_fifoState .txwrite rfl with }, rfl, by decide, by decide⟩

theorem witness_CreateMakesTheEightWrites :
    State.foreign { State.reset with port := [0x40000000] } = none ∧
    State.st { State.reset with port := [0x40000000] } = .idle ∧ State.moves { State.reset with port := [0x40000000] } = [] ∧
    decodeCmd 64 0x40000000 = .create 0x10000000 ∧ 0x10000000 = State.reset.params.devBase ∧
    State.reset.params.wellFormed = true := by decide

theorem witness_SendPollsThenWritesOnceOrNever :
    State.st { fifoState .idle with port := [0x506] } = .idle ∧ State.moves { fifoState .idle with port := [0x506] } = [] ∧
    decodeCmd 64 0x506 = .send 0x141 ∧ (fifoState .idle).inited = true ∧ (fifoState .idle).foreign = none ∧ windowValid (fifoState .idle) :=
  ⟨rfl, rfl, by decide, rfl, rfl, windowValid_fifoState .idle⟩

theorem witness_RecvPollsThenReadsOnceOrNever :
    State.st { fifoState .idle with port := [0x3FF] } = .idle ∧ State.moves { fifoState .idle with port := [0x3FF] } = [] ∧
    decodeCmd 64 0x3FF = .recv 0xFF ∧ (fifoState .idle).inited = true ∧ (fifoState .idle).foreign = none ∧ windowValid (fifoState .idle) :=
  ⟨rfl, rfl, by decide, rfl, rfl, windowValid_fifoState .idle⟩

theorem witness_FifoHandshakeLosesNothing :
    (RunInv (fifoState .txwrite) ∧ (fifoState .txwrite).dev = .fifo (madeFifo [0x68] [])) ∧
    (RunInv (fifoState .rxread) ∧ (fifoState .rxread).dev = .fifo (madeFifo [0x68] [])) :=
  ⟨⟨runInv_fifoState .txwrite rfl, rfl⟩, runInv_fifoState .rxread rfl, rfl⟩

theorem witness_DivisorIsTheRatio : lineRate 1 = some 115200 ∧ lineRate 3 = some 38400 ∧ lineRate 7 = none := by decide

end Sys2Proof.Tests
end

section
/-! The statements about the block's numbers: the counter's width, the request's address, the divisor. -/

namespace Sys2Proof.Machine

/-! ### The counter (R4, R129 b) -/

theorem one_le_cntWidth (b : Nat) : 1 ≤ cntWidth b := by
  unfold cntWidth
  split <;> omega

/-- No narrower counter holds `BUDGET` (R4). -/
theorem two_pow_pred_cntWidth_le {b : Nat} (h : 2 ≤ cntWidth b) : 2 ^ (cntWidth b - 1) ≤ b := by
  unfold cntWidth at *
  split at h
  · omega
  · next hb => simpa [hb] using Nat.log2_self_le hb

/-- Settles O25: `BUDGET` has its highest bit at `CNTW - 1`, so below it the sum stays in the width. -/
theorem counterNeverWraps : Obligations.CounterNeverWraps := fun b c =>
  ⟨one_le_cntWidth b, budget_lt_width b, two_pow_pred_cntWidth_le, cntNext_of_lt, cntNext_lt_width b c⟩

/-! ### The request's address (R51, R66) -/

/-- Every offset fits an address of a block the spec allows (R3). -/
theorem offset_lt_of_four_le {aw : Nat} (h : 4 ≤ aw) (off : Offset) : off.toNat < 2 ^ aw :=
  calc off.toNat < 2 ^ 4 := by have := off.isLt; omega
    _ ≤ 2 ^ aw := Nat.pow_le_pow_right (by decide) h

/-- Settles O6: the device subtracts the `base` the controller has added, both modulo `2^AW`. -/
theorem controllerRequestReachesItsOffset : Obligations.ControllerRequestReachesItsOffset := by
  intro aw base off v h
  have hoff := offset_lt_of_four_le h off
  refine ⟨rfl, rfl, ?_, ?_⟩
  · rw [reqXact_writeReq hoff, xactWord_toNat, if_pos rfl]
  · rw [reqXact_readReq hoff, xactWord_toNat]
    simp

/-! ### The divisor (R112, R162) -/

/-- A divisor has a rate only where it divides `REF_RATE` (R162). -/
theorem lineRate_mul {n : BitVec 16} {r : Nat} (h : lineRate n = some r) : r * n.toNat = refRate := by
  unfold lineRate at h
  split at h
  · cases h
  · split at h
    · next hd =>
      cases h
      exact Nat.div_mul_cancel (Nat.dvd_of_mod_eq_zero hd)
    · cases h

/-- Settles O60: the two rates are closed numbers, and a rate is given only where the division is exact. -/
theorem divisorIsTheRatio : Obligations.DivisorIsTheRatio :=
  ⟨by decide, by decide, fun _ _ => lineRate_mul⟩

end Sys2Proof.Machine
end

section
/-! What a controller step leaves alone, which accesses it makes, and that no step places a foreign request. -/

namespace Sys2Proof.Machine

variable {s t : State}

/-- What the dispatch leaves alone, and where it leads (R90 to R94, R96, R98). -/
theorem execIdle_frame (h : s.st = .idle) (hs : execIdle s = .next t) :
    t.params = s.params ∧ t.dev = s.dev ∧ t.trace = s.trace ∧ t.moves = s.moves ∧ t.foreign = s.foreign ∧
    (t.inited = true → s.inited = true) ∧ (t.st = .idle ∨ t.st = .init1 ∨ t.st = .txpoll ∨ t.st = .rxpoll) := by
  rcases execIdle_next.mp hs with ⟨-, rfl⟩ | ⟨w, ws, -, hc⟩
  · exact ⟨rfl, rfl, rfl, rfl, rfl, id, .inl h⟩
  · rcases (execCommand_idle (s := { s with port := ws }) h w).mp hc with
      ⟨-, -, rfl⟩ | ⟨-, rfl⟩ | ⟨-, -, rfl⟩ | ⟨-, -, rfl⟩ | ⟨-, -, rfl⟩ <;> simp

/-- No controller step changes the parameters, the moves to come or a foreign request. -/
theorem controllerStep_frame (h : controllerStep s = .next t) :
    t.params = s.params ∧ t.moves = s.moves ∧ t.foreign = s.foreign := by
  have hr := controllerStep_next.mp h
  cases hst : s.st <;> rw [hst] at hr
  case idle =>
    obtain ⟨hp, -, -, hm, hf, -⟩ := execIdle_frame hst (execIdle_next.mpr hr)
    exact ⟨hp, hm, hf⟩
  case txpoll | rxpoll => rcases hr with ⟨-, rfl⟩ | ⟨-, -, rfl⟩ <;> exact ⟨rfl, rfl, rfl⟩
  all_goals
    obtain ⟨-, rfl⟩ := hr
    exact ⟨rfl, rfl, rfl⟩

/-- Settles O52: IDLE and an exhausted poll make no access, and every other row makes the one its rule names. -/
theorem controllerMakesOnlyItsAccesses : Obligations.ControllerMakesOnlyItsAccesses := by
  intro s t h
  have hr := controllerStep_next.mp h
  cases hst : s.st <;> rw [hst] at hr
  case idle =>
    obtain ⟨-, -, htrace, -⟩ := execIdle_frame hst (execIdle_next.mpr hr)
    exact .inl htrace
  case txpoll | rxpoll =>
    rcases hr with ⟨-, rfl⟩ | ⟨-, -, rfl⟩
    · exact .inl rfl
    · exact .inr ⟨_, rfl, rfl⟩
  all_goals
    obtain ⟨-, rfl⟩ := hr
    exact .inr ⟨_, rfl, rfl⟩

/-- A foreign access touches no register of the controller, no port and no list of moves (43_register_access.md). -/
theorem foreignStep_frame {a : ForeignAccess} (h : foreignStep a s = .next t) :
    t.params = s.params ∧ t.st = s.st ∧ t.base = s.base ∧ t.inited = s.inited ∧ t.val = s.val ∧ t.cnt = s.cnt ∧
    t.port = s.port ∧ t.rsp = s.rsp ∧ t.moves = s.moves ∧ t.foreign = s.foreign := by
  obtain ⟨-, -, -, hx⟩ := foreignStep_next.mp h
  exact exec_xact_frame (decodeXact_format _ _) hx

/-- No move places a foreign request (R7, R213). -/
theorem moveStep_foreign (h : moveStep s = .next t) : t.foreign = s.foreign := by
  rcases moveStep_next.mp h with
    ⟨-, hc⟩ | ⟨w, rest, -, rfl⟩ | ⟨rest, -, rfl⟩ | ⟨e, rest, -, rfl⟩ | ⟨rest, -, rfl⟩
  · exact (controllerStep_frame hc).2.2
  all_goals rfl

/-- After any step no foreign request stands at the window: one placed before is served once and gone (R7, R213). -/
theorem step_noOtherMaster (h : step s = .next t) : noOtherMaster t := by
  rcases step_next.mp h with ⟨hn, hm⟩ | ⟨a, -, hf⟩
  · exact (moveStep_foreign hm).trans hn
  · obtain ⟨-, -, -, -, -, -, -, -, -, hfor⟩ := foreignStep_frame hf
    exact hfor

theorem foreignRequest_wide {a : ForeignAccess} (h : a.size ≠ 1) : foreignRequest a s = .error .wideAccess := by
  simp [foreignRequest, h]

theorem foreignRequest_busy {a : ForeignAccess} (h : a.size = 1) (hst : s.st ≠ .idle) :
    foreignRequest a s = .error .unserialisedAccess := by
  simp [foreignRequest, h, hst]

theorem foreignRequest_outside {a : ForeignAccess} (h : a.size = 1) (hst : s.st = .idle)
    (ha : 8 ≤ addrSub s.params.addrWidth a.req.addr s.params.devBase) :
    foreignRequest a s = .error .addressNotDevice := by
  simp [foreignRequest, h, hst, ha]

/-- A foreign request that breaks a premise stops the step, by the premise's name. -/
theorem step_foreign_refused {a : ForeignAccess} {why : Refusal} (h : s.foreign = some a)
    (hr : foreignRequest a { s with foreign := none } = .error why) : step s = .refused why := by
  rw [step_foreign h, foreignStep, hr]

/-- Settles O44: no move places a request, one placed before is gone after its step, and each broken premise has its own
refusal. -/
theorem otherMasterMustKeepThePremises : Obligations.OtherMasterMustKeepThePremises := by
  refine ⟨rfl, fun s t => step_noOtherMaster, fun s r n hf => ⟨fun hn => ?_, fun hn hst => ?_, fun hn hst ha => ?_⟩⟩
  · exact step_foreign_refused hf (foreignRequest_wide hn)
  · exact step_foreign_refused hf (foreignRequest_busy hn hst)
  · exact step_foreign_refused hf (foreignRequest_outside hn hst ha)

end Sys2Proof.Machine
end

section
/-! The controller's part of the invariant: one rule per state operation, then the rows and the moves made of them. -/

namespace Sys2Proof.Machine

variable {s t : State}

/-- The parts of the run's invariant that hold whoever else accesses the window, under one name. -/
structure ControllerInv (s : State) : Prop where
  params  : paramsOk s
  widths  : widthsOk s
  counter : counterOk s
  inited  : initedOk s
  window  : windowOk s
  queues  : queuesOk s

theorem RunInv.controllerInv (h : RunInv s) : ControllerInv s := { h with }

/-! ### One rule per operation -/

/-- Where the controller's registers are as they were, words have only left the port and the queues fit, the invariant
is kept. -/
theorem ControllerInv.of_same_registers (h : ControllerInv s) (hparams : t.params = s.params) (hst : t.st = s.st)
    (hbase : t.base = s.base) (hinited : t.inited = s.inited) (hcnt : t.cnt = s.cnt) (hport : t.port ⊆ s.port)
    (hq : queuesFit s.params.fifoDepth t.dev) : ControllerInv t where
  params := by rw [paramsOk, hparams]; exact h.params
  widths := by rw [widthsOk, hparams, hbase]; exact ⟨h.widths.1, fun w hw => h.widths.2 w (hport hw)⟩
  counter := by rw [counterOk, hparams, hst, hcnt]; exact h.counter
  inited := by rw [initedOk, hst, hinited]; exact h.inited
  window := by rw [windowOk, windowValid, hparams, hbase, hst, hinited]; exact h.window
  queues := by rw [queuesOk_iff, hparams]; exact hq

theorem ControllerInv.queuesFit (h : ControllerInv s) : queuesFit s.params.fifoDepth s.dev :=
  (queuesOk_iff s).mp h.queues

theorem ControllerInv.popMove (h : ControllerInv s) : ControllerInv (popMove s) := { h with }

theorem ControllerInv.popPort (h : ControllerInv s) {w : Nat} {ws : List Nat} (hp : s.port = w :: ws) :
    ControllerInv { s with port := ws } :=
  h.of_same_registers rfl rfl rfl rfl rfl (hp ▸ List.subset_cons_self w ws) h.queuesFit

theorem ControllerInv.deviceWrite (h : ControllerInv s) (r : WriteReg) (off : Offset) (v : Byte) :
    ControllerInv (deviceWrite r off v s) :=
  h.of_same_registers rfl rfl rfl rfl rfl (List.Subset.refl _) (queuesFit_write _ _ _ _ r h.queuesFit)

theorem ControllerInv.deviceRead (h : ControllerInv s) (r : ReadReg) (off : Offset) :
    ControllerInv (deviceRead r off s) :=
  h.of_same_registers rfl rfl rfl rfl rfl (List.Subset.refl _) (queuesFit_read _ _ _ r h.queuesFit)

theorem ControllerInv.deviceStep (h : ControllerInv s) (e : EnvStep) : ControllerInv (deviceStep e s) :=
  h.of_same_registers rfl rfl rfl rfl rfl (List.Subset.refl _) (queuesFit_env _ _ _ e h.queuesFit)

theorem ControllerInv.hostTake (h : ControllerInv s) : ControllerInv (hostTake s) := { h with }

/-- What is offered is cut to the width of a command word (R70). -/
theorem ControllerInv.hostOffer (h : ControllerInv s) (w : Nat) : ControllerInv (hostOffer w s) :=
  { h with
    widths := ⟨h.widths.1, List.forall_mem_append.mpr
      ⟨h.widths.2, List.forall_mem_singleton.mpr (Nat.mod_lt _ (Nat.two_pow_pos _))⟩⟩ }

/-- The free values of the reset input have the widths of their registers (R230). -/
theorem ControllerInv.controllerReset (h : ControllerInv s) : ControllerInv (controllerReset s) where
  params := h.params
  widths := ⟨Nat.mod_lt _ (Nat.two_pow_pos _), h.widths.2⟩
  counter := ⟨Nat.mod_lt _ (Nat.two_pow_pos _), nofun⟩
  inited := ⟨nofun, nofun⟩
  window := ⟨nofun, nofun⟩
  queues := h.queues

/-- A state may be entered whose class finds `cnt`, `inited` and `base` as it needs them. -/
theorem ControllerInv.goto {n : SeqState} (h : ControllerInv s)
    (htransfer : transferState n = true → s.inited = true ∧ s.cnt ≤ s.params.budget)
    (hinit : initState n = true → s.inited = false ∧ windowValid s) : ControllerInv (goto n s) where
  params := h.params
  widths := h.widths
  counter := ⟨h.counter.1, fun hn => (htransfer hn).2⟩
  inited := ⟨fun hn => (htransfer hn).1, fun hn => (hinit hn).1⟩
  window := ⟨h.window.1, fun hn => (hinit hn).2⟩
  queues := h.queues

theorem ControllerInv.finish (h : ControllerInv s) (c : Status) (b : Byte) : ControllerInv (finish c b s) :=
  ControllerInv.goto (s := respond c b s) { h with } nofun nofun

/-- The end of a CREATE (R108): `inited` is set under a valid window. -/
theorem ControllerInv.finish_created (h : ControllerInv s) (hv : windowValid s) (c : Status) (b : Byte) :
    ControllerInv (Machine.finish c b { s with inited := true }) where
  params := h.params
  widths := h.widths
  counter := ⟨h.counter.1, nofun⟩
  inited := ⟨nofun, nofun⟩
  window := ⟨fun _ => hv, nofun⟩
  queues := h.queues

/-- `val` takes any byte, and `cnt` any number of polls within the budget (R129 b). -/
theorem ControllerInv.latch (h : ControllerInv s) (v : Byte) {c : Nat} (hc : c ≤ s.params.budget) :
    ControllerInv { s with val := v, cnt := c } :=
  { h with counter := ⟨hc.trans_lt (budget_lt_width _), fun _ => hc⟩ }

/-- The start of a CREATE (R91): `base` takes an operand of `AW` bits that is the device's window. -/
theorem ControllerInv.create (h : ControllerInv s) {arg : Nat} (hw : arg < 2 ^ s.params.addrWidth)
    (hv : windowAt s.params arg) :
    ControllerInv (Machine.goto .init1 { s with base := arg, inited := false }) where
  params := h.params
  widths := ⟨hw, h.widths.2⟩
  counter := ⟨h.counter.1, nofun⟩
  inited := ⟨nofun, fun _ => rfl⟩
  window := ⟨nofun, fun _ => hv⟩
  queues := h.queues

/-! ### The rows -/

/-- The acceptance of a command keeps the controller's invariant (R91 to R94, R96). -/
theorem ControllerInv.execCommand {w : Nat} (h : ControllerInv s) (hst : s.st = .idle)
    (hc : execCommand w s = .next t) : ControllerInv t := by
  rcases (execCommand_idle hst w).mp hc with
    ⟨-, hv, rfl⟩ | ⟨-, rfl⟩ | ⟨-, hi, rfl⟩ | ⟨-, hi, rfl⟩ | ⟨-, -, rfl⟩
  · exact h.create (cmdArg_lt _ w) hv
  · exact h.finish _ _
  · exact (h.latch _ (Nat.zero_le _)).goto (fun _ => ⟨hi, Nat.zero_le _⟩) nofun
  · exact (h.latch s.val (Nat.zero_le _)).goto (fun _ => ⟨hi, Nat.zero_le _⟩) nofun
  · exact h.finish _ _

/-- A write of the initialisation sequence, but its last, keeps the controller's invariant (R100). -/
theorem ControllerInv.initWrite {n : SeqState} {r : WriteReg} {off : Offset} {v : Byte} (h : ControllerInv s)
    (hs : initState s.st = true) (hn : transferState n = false)
    (hr : windowValid s ∧ t = Machine.goto n (Machine.deviceWrite r off v s)) : ControllerInv t := by
  obtain ⟨hv, rfl⟩ := hr
  exact (h.deviceWrite r off v).goto (fun e => nomatch hn.symm.trans e) fun _ => ⟨h.inited.2 hs, hv⟩

/-- A step of the polling unit keeps the controller's invariant: below the budget it counts one (R121, R129 b). -/
theorem ControllerInv.pollStep {mask : Byte} {hitSt missSt : SeqState} {f : Failure} (h : ControllerInv s)
    (hs : transferState s.st = true) (hhit : initState hitSt = false) (hmiss : initState missSt = false)
    (hr : pollStep mask hitSt missSt f s = .next t) : ControllerInv t := by
  rcases pollStep_next.mp hr with ⟨-, rfl⟩ | ⟨hne, -, rfl⟩
  · exact h.finish _ _
  · have hlt : s.cnt < s.params.budget := Nat.lt_of_le_of_ne (h.counter.2 hs) hne
    have hle : cntNext s.params.budget s.cnt ≤ s.params.budget := by rw [cntNext_of_lt hlt]; exact hlt
    refine ((h.deviceRead .lineStatus offLsr).latch s.val hle).goto (fun _ => ⟨h.inited.1 hs, hle⟩) fun e => ?_
    split at e
    · exact nomatch hhit.symm.trans e
    · exact nomatch hmiss.symm.trans e

/-- Every row keeps the controller's invariant (R80). -/
theorem ControllerInv.controllerStep (h : ControllerInv s) (hs : controllerStep s = .next t) : ControllerInv t := by
  have hr := controllerStep_next.mp hs
  cases hst : s.st <;> rw [hst] at hr
  case idle =>
    rcases hr with ⟨-, rfl⟩ | ⟨w, ws, hp, hc⟩
    · exact h
    · exact (h.popPort hp).execCommand hst hc
  case init7 => exact hr.2 ▸ (h.deviceWrite _ _ _).finish_created hr.1 _ _
  case txpoll => exact h.pollStep (by rw [hst]; rfl) rfl rfl (pollStep_next.mpr hr)
  case rxpoll => exact h.pollStep (by rw [hst]; rfl) rfl rfl (pollStep_next.mpr hr)
  case txwrite => exact hr.2 ▸ (h.deviceWrite _ _ _).finish _ _
  case rxread => exact hr.2 ▸ (h.deviceRead _ _).finish _ _
  all_goals exact h.initWrite (by rw [hst]; rfl) rfl hr

/-! ### The moves, a foreign access, a step -/

theorem ControllerInv.moveStep (h : ControllerInv s) (hs : moveStep s = .next t) : ControllerInv t := by
  rcases moveStep_next.mp hs with
    ⟨-, hc⟩ | ⟨w, rest, -, rfl⟩ | ⟨rest, -, rfl⟩ | ⟨e, rest, -, rfl⟩ | ⟨rest, -, rfl⟩
  · exact h.popMove.controllerStep hc
  · exact h.popMove.hostOffer w
  · exact h.popMove.hostTake
  · exact h.popMove.deviceStep e
  · exact h.popMove.controllerReset

theorem ControllerInv.foreignStep {a : ForeignAccess} (h : ControllerInv s) (hs : foreignStep a s = .next t) :
    ControllerInv t := by
  obtain ⟨hparams, hst, hbase, hinited, -, hcnt, hport, -⟩ := foreignStep_frame hs
  obtain ⟨-, -, -, hx⟩ := foreignStep_next.mp hs
  exact h.of_same_registers hparams hst hbase hinited hcnt (hport ▸ List.Subset.refl _)
    (exec_xact_queuesFit (decodeXact_format _ _) hx h.queuesFit)

theorem ControllerInv.step (h : ControllerInv s) (hs : step s = .next t) : ControllerInv t := by
  rcases step_next.mp hs with ⟨-, hm⟩ | ⟨a, -, hf⟩
  · exact h.moveStep hm
  · exact ControllerInv.foreignStep (s := { s with foreign := none }) { h with } hf

/-- Settles O47: no agent's step, a foreign access included, breaks the controller's part of the invariant. -/
theorem controllerInvariantIsKept : Obligations.ControllerInvariantIsKept := by
  intro s t hp hw hc hi hv hq hs
  obtain ⟨hp', hw', hc', hi', hv', hq'⟩ := ControllerInv.step ⟨hp, hw, hc, hi, hv, hq⟩ hs
  exact ⟨hp', hw', hc', hi', hv', hq'⟩

end Sys2Proof.Machine
end

section
/-! The invariant of a run: the device is programmed as far as the sequence has come, and the handshake holds. -/

namespace Sys2Proof.Machine

variable {s t : State} {d d' : Device} {depth n : Nat}

/-! ### The device along the initialisation sequence (R101 to R108) -/

theorem dlab_of_lcrDlab (h : d.lcr = lcrDlab) : d.dlab = true := by rw [dlab_eq, h]; rfl

theorem dlab_of_lcr8n1 (h : d.lcr = lcr8n1) : d.dlab = false := by rw [dlab_eq, h]; rfl

theorem programmedSoFar_init3a : programmedSoFar .init3a (d.write depth .lineControl lcrDlab n) :=
  write_lineControl_lcr depth n lcrDlab d

/-- INIT3A finds DLAB 1, so offset 0 is the divisor's low byte (R103). -/
theorem programmedSoFar_init3b (h : programmedSoFar .init3a d) :
    programmedSoFar .init3b (d.write depth (if d.dlab then .divisorLsb else .data) dllInit n) := by
  have hl : d.lcr = lcrDlab := h
  simp [programmedSoFar, dlab_of_lcrDlab hl, hl]

/-- INIT3B finds DLAB 1, so offset 1 is the divisor's high byte (R104). -/
theorem programmedSoFar_init4 (h : programmedSoFar .init3b d) :
    programmedSoFar .init4 (d.write depth (if d.dlab then .divisorMsb else .irqEnable) dlmInit n) := by
  obtain ⟨hl, hdll⟩ := h
  simp [programmedSoFar, divisorProgrammed, dlab_of_lcrDlab hl, hl, hdll]

theorem programmedSoFar_init5 (h : programmedSoFar .init4 d) :
    programmedSoFar .init5 (d.write depth .lineControl lcr8n1 n) := by
  obtain ⟨-, hdll, hdlm⟩ := h
  simp [programmedSoFar, divisorProgrammed, hdll, hdlm]

theorem programmedSoFar_init6 (h : programmedSoFar .init5 d) :
    programmedSoFar .init6 (d.write depth .fifoControl fcrInit n) := by
  obtain ⟨hl, hdll, hdlm⟩ := h
  simp [programmedSoFar, divisorProgrammed, hl, hdll, hdlm, fifoProgrammed_fcrInit]

theorem programmedSoFar_init7 (h : programmedSoFar .init6 d) :
    programmedSoFar .init7 (d.write depth .modemControl mcrInit n) := by
  obtain ⟨hl, ⟨hdll, hdlm⟩, hfifo⟩ := h
  have hmcr := write_modemControl_mcr depth n mcrInit d (by decide)
  have hfifo' := fifoProgrammed_write depth n mcrInit d (r := .modemControl) nofun nofun hfifo
  simp [programmedSoFar, divisorProgrammed, hl, hdll, hdlm, hfifo', hmcr]

/-- INIT7 finds DLAB 0, so offset 1 is IRQ_ENABLE, and the device is programmed (R108, R42). -/
theorem deviceProgrammed_of_init7 (h : programmedSoFar .init7 d) :
    deviceProgrammed (d.write depth (if d.dlab then .divisorMsb else .irqEnable) ierRx n) := by
  obtain ⟨hl, ⟨hdll, hdlm⟩, hfifo, hmcr⟩ := h
  have hier := write_irqEnable_ier depth n ierRx d (by decide)
  have hfifo' := fifoProgrammed_write depth n ierRx d (r := .irqEnable) nofun nofun hfifo
  simp [deviceProgrammed, divisorProgrammed, dlab_of_lcr8n1 hl, hl, hdll, hdlm, hfifo', hmcr, hier]

theorem deviceProgrammed.dlab (h : deviceProgrammed d) : d.dlab = false := dlab_of_lcr8n1 h.2.1

/-- As far as the sequence has come depends on the control registers only. -/
theorem sameControl.programmedSoFar {st : SeqState} (h : sameControl d d') (hp : programmedSoFar st d) :
    programmedSoFar st d' := by
  obtain ⟨hdll, hdlm, -, hlcr, hmcr, hfifo⟩ := h
  cases st <;> simp_all [Machine.programmedSoFar, divisorProgrammed]

/-! ### The program of the device, row by row -/

/-- While no CREATE has completed, only the part the sequence has come through counts. -/
theorem programOk_of_not_inited (hi : t.inited = false) (hp : programmedSoFar t.st t.dev) : programOk t :=
  ⟨hp, fun e => nomatch hi.symm.trans e⟩

/-- Outside the sequence only a completed CREATE counts. -/
theorem programOk_of_not_initState (hst : initState t.st = false) (hp : t.inited = true → deviceProgrammed t.dev) :
    programOk t := by
  refine ⟨?_, hp⟩
  generalize t.st = st at *
  cases st <;> trivial

/-- The control registers staying as they are, so does what is programmed. -/
theorem programOk.of_sameControl (h : programOk s) (hst : t.st = s.st) (hi : t.inited = s.inited)
    (hd : sameControl s.dev t.dev) : programOk t :=
  ⟨hst ▸ hd.programmedSoFar h.1, fun e => hd.programmed (h.2 (hi ▸ e))⟩

/-- A step of the polling unit reads LINE_STATUS at most, which programs nothing (R121, R155). -/
theorem pollStep_programOk {mask : Byte} {hitSt missSt : SeqState} {f : Failure}
    (hp : s.inited = true → deviceProgrammed s.dev) (hhit : initState hitSt = false) (hmiss : initState missSt = false)
    (hr : pollStep mask hitSt missSt f s = .next t) : programOk t := by
  rcases pollStep_next.mp hr with ⟨-, rfl⟩ | ⟨-, -, rfl⟩
  · exact programOk_of_not_initState rfl hp
  · refine programOk_of_not_initState ?_ fun e => (read_same _ _ .lineStatus nofun).programmed (hp e)
    rw [goto_st]
    split <;> assumption

/-- Every row keeps the device programmed: the sequence comes one write further under the DLAB it has set itself
(R101 to R108), and the transfers write and read DATA, with DLAB 0, on a device that is ready (R110, R237, R238). -/
theorem RunInv.controllerStep_programOk (h : RunInv s) (hs : controllerStep s = .next t) : programOk t := by
  have hr := controllerStep_next.mp hs
  obtain ⟨hsofar, hdone⟩ := h.program
  obtain ⟨htransfer, hinit⟩ := h.inited
  obtain ⟨htx, hrx⟩ := h.handshake
  cases hst : s.st <;> rw [hst] at hr hsofar htransfer hinit
  case idle =>
    obtain ⟨-, hdev, -, -, -, hi, hst'⟩ := execIdle_frame hst (execIdle_next.mpr hr)
    have hp : t.inited = true → deviceProgrammed t.dev := fun e => hdev ▸ hdone (hi e)
    refine ⟨?_, hp⟩
    rcases hst' with e | e | e | e <;> rw [e] <;> trivial
  case init1 => exact hr.2 ▸ programOk_of_not_inited (hinit rfl) trivial
  case init2 => exact hr.2 ▸ programOk_of_not_inited (hinit rfl) programmedSoFar_init3a
  case init3a => exact hr.2 ▸ programOk_of_not_inited (hinit rfl) (programmedSoFar_init3b hsofar)
  case init3b => exact hr.2 ▸ programOk_of_not_inited (hinit rfl) (programmedSoFar_init4 hsofar)
  case init4 => exact hr.2 ▸ programOk_of_not_inited (hinit rfl) (programmedSoFar_init5 hsofar)
  case init5 => exact hr.2 ▸ programOk_of_not_inited (hinit rfl) (programmedSoFar_init6 hsofar)
  case init6 => exact hr.2 ▸ programOk_of_not_inited (hinit rfl) (programmedSoFar_init7 hsofar)
  case init7 => exact hr.2 ▸ programOk_of_not_initState rfl fun _ => deviceProgrammed_of_init7 hsofar
  case txpoll | rxpoll => exact pollStep_programOk hdone rfl rfl (pollStep_next.mpr hr)
  case txwrite =>
    obtain ⟨-, rfl⟩ := hr
    have hdlab : s.dlab = false := (hdone (htransfer rfl)).dlab
    refine programOk_of_not_initState rfl fun e => (?_ : sameControl s.dev _).programmed (hdone e)
    simpa [hdlab] using write_data_same _ _ _ _ (htx hst)
  case rxread =>
    obtain ⟨-, rfl⟩ := hr
    exact programOk_of_not_initState rfl fun e => (read_same _ _ _ fun _ => hrx hst).programmed (hdone e)

/-! ### The handshake -/

theorem handshakeOk_of_st (htx : t.st ≠ .txwrite) (hrx : t.st ≠ .rxread) : handshakeOk t :=
  ⟨fun e => absurd e htx, fun e => absurd e hrx⟩

/-- A poll whose mask is the data state's own bit leads there only with the device ready: its status byte has shown it
(R122, R237, R238). -/
theorem pollStep_handshakeOk {mask : Byte} {hitSt missSt : SeqState} {f : Failure}
    (hmiss : missSt = .txpoll ∨ missSt = .rxpoll) (htx : hitSt = .txwrite → mask = lsrThre)
    (hrx : hitSt = .rxread → mask = lsrDr) (hr : pollStep mask hitSt missSt f s = .next t) : handshakeOk t := by
  rcases pollStep_next.mp hr with ⟨-, rfl⟩ | ⟨-, -, rfl⟩
  · exact handshakeOk_of_st nofun nofun
  · split
    · next hh =>
      exact ⟨fun e => transmitReady_status _ _ (htx e ▸ hh), fun e => receiveReady_status _ _ (hrx e ▸ hh)⟩
    · rcases hmiss with rfl | rfl <;> exact handshakeOk_of_st nofun nofun

/-- A controller step leads to TXWRITE or RXREAD only by a poll that hits (R80, R122). -/
theorem controllerStep_handshakeOk (hs : controllerStep s = .next t) : handshakeOk t := by
  have hr := controllerStep_next.mp hs
  cases hst : s.st <;> rw [hst] at hr
  case idle =>
    obtain ⟨-, -, -, -, -, -, hst'⟩ := execIdle_frame hst (execIdle_next.mpr hr)
    rcases hst' with e | e | e | e <;> exact handshakeOk_of_st (by simp [e]) (by simp [e])
  case txpoll => exact pollStep_handshakeOk (hitSt := .txwrite) (.inl rfl) (fun _ => rfl) nofun (pollStep_next.mpr hr)
  case rxpoll => exact pollStep_handshakeOk (hitSt := .rxread) (.inr rfl) nofun (fun _ => rfl) (pollStep_next.mpr hr)
  all_goals
    obtain ⟨-, rfl⟩ := hr
    exact handshakeOk_of_st nofun nofun

/-! ### The moves and a step -/

theorem RunInv.popMove (h : RunInv s) : RunInv (popMove s) := { h with }

/-- Every move keeps the device programmed and the handshake: the host does not touch the device, the device's own steps
change no control register and lose no readiness (R239), and the reset input forgets that a CREATE completed (R230). -/
theorem RunInv.moveStep_device (h : RunInv s) (hs : moveStep s = .next t) : programOk t ∧ handshakeOk t := by
  rcases moveStep_next.mp hs with
    ⟨-, hc⟩ | ⟨w, rest, -, rfl⟩ | ⟨rest, -, rfl⟩ | ⟨e, rest, -, rfl⟩ | ⟨rest, -, rfl⟩
  · exact ⟨h.popMove.controllerStep_programOk hc, controllerStep_handshakeOk hc⟩
  · exact ⟨h.program, h.handshake⟩
  · exact ⟨h.program, h.handshake⟩
  · obtain ⟨htx, hrx⟩ := h.handshake
    exact ⟨h.program.of_sameControl rfl rfl (env_same _ _ _ e),
      fun hst => transmitReady_env _ _ _ e (htx hst), fun hst => receiveReady_env _ _ _ e (hrx hst)⟩
  · exact ⟨programOk_of_not_inited rfl trivial, handshakeOk_of_st nofun nofun⟩

theorem RunInv.step (h : RunInv s) (hs : step s = .next t) : RunInv t := by
  have hc : ControllerInv t := h.controllerInv.step hs
  obtain ⟨hprogram, hhandshake⟩ := h.moveStep_device ((step_own h.exclusive).symm.trans hs)
  exact { hc with exclusive := step_noOtherMaster hs, program := hprogram, handshake := hhandshake }

/-- Settles O46: the controller's part is kept whoever moves; the rest is kept since no foreign access falls between. -/
theorem runInvariantIsKept : Obligations.RunInvariantIsKept := fun _ _ h hs => h.step hs

end Sys2Proof.Machine
end

section
/-! The statements about the registers of the state: which access changes DLAB, which step writes `base` or `val`, what
stays programmed after a CREATE, and the state after reset. -/

namespace Sys2Proof.Machine

variable {s t : State}

/-! ### DLAB over the window accesses (R31, R151) -/

/-- Everything a window access that answers a next state can do: one device write or one device read; DATA is reached by
its own rows only, and LINE_CONTROL is written by WR_LINE_CONTROL only (R78). -/
theorem exec_xact_next {i : Instr} (hi : i.format = .xact) (h : exec i s = .next t) :
    (∃ r off v, t = deviceWrite r off v s ∧ (r = .data → i = .wrData v) ∧ (r = .lineControl → i = .wrLineControl v)) ∨
    (∃ r off, t = deviceRead r off s ∧ (r = .data → ∃ lane, i = .rdData lane)) := by
  cases i
  case wrData v | wrDivisorLsb v | wrDivisorMsb v | wrIrqEnable v | wrFifoControl v | wrLineControl v
      | wrModemControl v =>
    cases h
    exact .inl ⟨_, _, v, rfl, by simp, by simp⟩
  case rdData lane | rdDivisorLsb lane | rdDivisorMsb lane | rdIrqEnable lane | rdIrqId lane | rdLineControl lane
      | rdModemControl lane | rdLineStatus lane | rdOffset6 lane | rdOffset7 lane =>
    cases h
    exact .inr ⟨_, _, rfl, by simp⟩
  case wrLineStatus v | wrOffset6 v | wrOffset7 v => cases h
  all_goals cases hi

/-- A write of another register keeps LINE_CONTROL, if a DATA write of the abstract device is in order (R141, R184). -/
theorem write_lcr_of_ne (depth n : Nat) (v : Byte) (d : Device) {r : WriteReg} (hr : r ≠ .lineControl)
    (hd : r = .data → ∀ f, d = .abs f → f.thre = true) : (d.write depth r v n).lcr = d.lcr := by
  cases r
  case lineControl => exact absurd rfl hr
  case data =>
    cases d with
    | abs f =>
      change (f.writeData v n).lcr = f.lcr
      rw [f.writeData_ready n v (hd rfl f rfl)]
    | regfile f => rfl
    | fifo f =>
      change (f.writeData depth v).lcr = f.lcr
      rcases f.writeData_cases depth v with ⟨e, -⟩ | ⟨e, -⟩ <;> rw [e]
  all_goals simp

theorem sameControl.lcr {d d' : Device} (h : sameControl d d') : d'.lcr = d.lcr := by
  obtain ⟨-, -, -, hlcr, -⟩ := h
  exact hlcr

/-- A read keeps LINE_CONTROL, if a DATA read of the abstract device is in order (R142, R185). -/
theorem read_lcr (n : Nat) (d : Device) (r : ReadReg) (hd : r = .data → ∀ f, d = .abs f → f.dr = true) :
    (d.read r n).2.lcr = d.lcr := by
  cases d with
  | abs f => exact (read_same n (.abs f) r fun e => hd e f rfl).lcr
  | regfile f => exact (read_same n (.regfile f) r fun _ => trivial).lcr
  | fifo f =>
    cases r
    case data =>
      change f.readData.2.lcr = f.lcr
      rcases f.readData_cases with ⟨b, rx, -, e⟩ | ⟨-, e⟩ <;> rw [e]
    all_goals rfl

/-- Settles O27: an access is one device write or one device read, and LINE_CONTROL, whose bit 7 is DLAB, is kept by all
but a write of its own. -/
theorem onlyLineControlChangesDlab : Obligations.OnlyLineControlChangesDlab := by
  refine ⟨fun s t v h => ?_, fun s t i hi hne horder h => ?_⟩
  · cases h
    exact (dlab_eq _).trans (congrArg dlabOf (write_lineControl_lcr _ _ _ _))
  · refine (dlab_eq _).trans (Eq.trans (congrArg dlabOf ?_) (dlab_eq _).symm)
    rcases exec_xact_next hi h with ⟨r, off, v, rfl, hdata, hline⟩ | ⟨r, off, rfl, hdata⟩
    · exact write_lcr_of_ne _ _ _ _ (fun e => hne v (hline e)) fun e f hf => (horder f hf).1 v (hdata e)
    · refine read_lcr _ _ _ fun e f hf => ?_
      obtain ⟨lane, hrow⟩ := hdata e
      exact (horder f hf).2 lane hrow

/-! ### `base` and `val` over the controller's steps (R21, R23) -/

/-- The low two bits of a command word are its operation's code (R70, R71). -/
theorem mod_four_eq_bits (w : Nat) : w % 4 = (cmdOp w).bits.toNat := by
  rw [cmdOp, bits_cmdOpOf, cmdOpBits_toNat]

/-- A controller step keeps `base` and `val`, but for the acceptance of a command in IDLE. -/
theorem controllerStep_base_val (h : controllerStep s = .next t) :
    t.base = s.base ∧ t.val = s.val ∨
    s.st = .idle ∧ ∃ w ws, s.port = w :: ws ∧ execCommand w { s with port := ws } = .next t := by
  have hr := controllerStep_next.mp h
  cases hst : s.st <;> rw [hst] at hr
  case idle =>
    rcases hr with ⟨-, rfl⟩ | hw
    · exact .inl ⟨rfl, rfl⟩
    · exact .inr ⟨rfl, hst ▸ hw⟩
  case txpoll | rxpoll => rcases hr with ⟨-, rfl⟩ | ⟨-, -, rfl⟩ <;> exact .inl ⟨rfl, rfl⟩
  all_goals
    obtain ⟨-, rfl⟩ := hr
    exact .inl ⟨rfl, rfl⟩

/-- The controller writes `base` only where it accepts a CREATE (R91). -/
theorem controllerStep_base (h : controllerStep s = .next t) :
    t.base = s.base ∨ s.st = .idle ∧ t.st = .init1 ∧ t.inited = false ∧
      ∃ w ws, s.port = w :: ws ∧ w % 4 = 0 ∧ t.base = w / 4 % 2 ^ s.params.addrWidth := by
  rcases controllerStep_base_val h with ⟨hb, -⟩ | ⟨hst, w, ws, hp, hc⟩
  · exact .inl hb
  · rcases (execCommand_idle (s := { s with port := ws }) hst w).mp hc with
      ⟨hop, -, rfl⟩ | ⟨-, rfl⟩ | ⟨-, -, rfl⟩ | ⟨-, -, rfl⟩ | ⟨-, -, rfl⟩
    · exact .inr ⟨hst, rfl, rfl, w, ws, hp, by rw [mod_four_eq_bits, hop]; rfl, rfl⟩
    all_goals exact .inl rfl

/-- Settles O54: of the commands IDLE accepts only SEND latches `val`, and no other row writes it. -/
theorem onlySendWritesVal : Obligations.OnlySendWritesVal := by
  intro s t h hne
  rcases controllerStep_base_val h with ⟨-, hv⟩ | ⟨hst, w, ws, hp, hc⟩
  · exact absurd hv hne
  · rcases (execCommand_idle (s := { s with port := ws }) hst w).mp hc with
      ⟨-, -, rfl⟩ | ⟨-, rfl⟩ | ⟨hop, -, rfl⟩ | ⟨-, -, rfl⟩ | ⟨-, -, rfl⟩
    · exact absurd rfl hne
    · exact absurd rfl hne
    · exact ⟨hst, rfl, w, ws, hp, by rw [mod_four_eq_bits, hop]; rfl, rfl⟩
    · exact absurd rfl hne
    · exact absurd rfl hne

/-- Each move is taken off the list, and only a CREATE the controller accepts and the reset input write `base`. -/
theorem moveStep_base (h : moveStep s = .next t) :
    t.params = s.params ∧ t.moves = s.moves.tail ∧
    (t.base = s.base ∨
      (s.st = .idle ∧ t.st = .init1 ∧ t.inited = false ∧
        ∃ w ws, s.port = w :: ws ∧ w % 4 = 0 ∧ t.base = w / 4 % 2 ^ s.params.addrWidth) ∨
      ∃ rest, s.moves = .reset :: rest) := by
  rcases moveStep_next.mp h with
    ⟨-, hc⟩ | ⟨w, rest, -, rfl⟩ | ⟨rest, -, rfl⟩ | ⟨e, rest, -, rfl⟩ | ⟨rest, hm, rfl⟩
  · obtain ⟨hparams, hmoves, -⟩ := controllerStep_frame hc
    exact ⟨hparams, hmoves, (controllerStep_base hc).imp_right .inl⟩
  · exact ⟨rfl, rfl, .inl rfl⟩
  · exact ⟨rfl, rfl, .inl rfl⟩
  · exact ⟨rfl, rfl, .inl rfl⟩
  · exact ⟨rfl, rfl, .inr (.inr ⟨rest, hm⟩)⟩

/-- Settles O53: a step is a move, or a foreign access, which touches no register of the controller and no move. -/
theorem onlyCreateWritesBase : Obligations.OnlyCreateWritesBase := by
  intro s t h
  rcases step_next.mp h with ⟨hn, hm⟩ | ⟨a, ha, hf⟩
  · rw [if_pos (show s.foreign = none from hn)]
    exact moveStep_base hm
  · obtain ⟨hparams, -, hbase, -, -, -, -, -, hmoves, -⟩ := foreignStep_frame hf
    rw [if_neg (by simp [ha])]
    exact ⟨hparams, hmoves, .inl hbase⟩

/-! ### The device after a completed CREATE (R42, R110) -/

/-- A programmed device has DLAB 0, the divisor 3 and the line format 8N1 (R42). -/
theorem deviceProgrammed.line {d : Device} (h : deviceProgrammed d) :
    d.dlab = false ∧ d.divisor = 3#16 ∧ d.lcr = 0x03#8 := by
  obtain ⟨⟨hdll, hdlm⟩, hlcr, -⟩ := h
  exact ⟨dlab_of_lcr8n1 hlcr, by rw [Device.divisor, hdll, hdlm]; decide, hlcr⟩

/-- Only the acceptance of the next CREATE clears `inited` in a controller step, and IDLE makes no access (R91). -/
theorem controllerStep_inited_or_dev (hi : s.inited = true) (h : controllerStep s = .next t) :
    t.inited = true ∨ t.dev = s.dev := by
  have hr := controllerStep_next.mp h
  cases hst : s.st <;> rw [hst] at hr
  case idle =>
    obtain ⟨-, hdev, -⟩ := execIdle_frame hst (execIdle_next.mpr hr)
    exact .inr hdev
  case init7 => exact .inl (hr.2 ▸ rfl)
  case txpoll | rxpoll => rcases hr with ⟨-, rfl⟩ | ⟨-, -, rfl⟩ <;> exact .inl hi
  all_goals
    obtain ⟨-, rfl⟩ := hr
    exact .inl hi

/-- Beside it only the reset input clears `inited`, and it does not touch the device (R230). -/
theorem moveStep_inited_or_dev (hi : s.inited = true) (h : moveStep s = .next t) :
    t.inited = true ∨ t.dev = s.dev := by
  rcases moveStep_next.mp h with
    ⟨-, hc⟩ | ⟨w, rest, -, rfl⟩ | ⟨rest, -, rfl⟩ | ⟨e, rest, -, rfl⟩ | ⟨rest, -, rfl⟩
  · exact controllerStep_inited_or_dev (s := popMove s) hi hc
  · exact .inl hi
  · exact .inl hi
  · exact .inl hi
  · exact .inr rfl

/-- A created run's device stays programmed over any step, also one that forgets the CREATE. -/
theorem RunInv.step_deviceProgrammed (h : RunInv s) (hi : s.inited = true) (hs : Machine.step s = .next t) :
    deviceProgrammed t.dev := by
  rcases moveStep_inited_or_dev hi ((step_own h.exclusive).symm.trans hs) with hi' | hdev
  · exact (h.step hs).program.2 hi'
  · exact hdev ▸ h.program.2 hi

/-- Settles O49: the invariant has the device programmed before the step, and the step keeps it so. -/
theorem dlabStaysClearAfterCreate : Obligations.DlabStaysClearAfterCreate := by
  intro s t h hi hs
  obtain ⟨hdlab, hdiv, hlcr⟩ := deviceProgrammed.line (h.program.2 hi)
  exact ⟨hdlab, hdiv, hlcr, deviceProgrammed.line (h.step_deviceProgrammed hi hs)⟩

/-! ### The state after reset (R41, R230) -/

/-- Settles O43: every clause is a value of the one reset state; with nothing offered its step is the quiescent one, and
without a device SEND and RECV answer NotCreated whatever their operand. -/
theorem resetStateIsAsStated : Obligations.ResetStateIsAsStated :=
  ⟨rfl, rfl, rfl, rfl, rfl, rfl, rfl, rfl, rfl, rfl, by decide, fun _ => ⟨rfl, rfl⟩⟩

/-- Settles O45: the parameters' defaults meet their constraints, and in IDLE without a device the rest asks only for
the widths of `base` and `cnt`. -/
theorem runInvariantHoldsAtReset : Obligations.RunInvariantHoldsAtReset where
  params := by unfold paramsOk; decide
  exclusive := rfl
  widths := ⟨Nat.two_pow_pos _, nofun⟩
  counter := ⟨Nat.two_pow_pos _, nofun⟩
  inited := ⟨nofun, nofun⟩
  window := ⟨nofun, nofun⟩
  program := programOk_of_not_inited rfl trivial
  queues := trivial
  handshake := handshakeOk_of_st nofun nofun

end Sys2Proof.Machine
end

section
/-! The encoding (30_encoding.md): decode and encode agree in each format, each word matches exactly its row of the
opcode table, and DLAB selects the row of a banked word. -/

namespace Sys2Proof

/-! ### Command words (R70, R71, R79 a) -/

theorem decodeCmd_format (aw w : Nat) : (decodeCmd aw w).format = .cmd := by
  unfold decodeCmd
  cases cmdOp w <;> rfl

theorem decodeCmd_context (aw w : Nat) : (decodeCmd aw w).context = none := by
  unfold decodeCmd
  cases cmdOp w <;> rfl

theorem decodeCmd_fitsWidth (aw w : Nat) : (decodeCmd aw w).fitsWidth aw = true := by
  have h := decide_eq_true (cmdArg_lt aw w)
  unfold decodeCmd
  cases cmdOp w <;> exact h

theorem encode_decodeCmd (aw w : Nat) : encode (decodeCmd aw w) = cmdWord (cmdOp w) (cmdArg aw w) := by
  unfold decodeCmd
  cases cmdOp w <;> rfl

theorem decode_cmd_eq_ok {aw w : Nat} {dlab : Bool} {i : Instr} :
    decode aw .cmd dlab w = .ok i ↔ w < 2 ^ (aw + 2) ∧ decodeCmd aw w = i := by
  by_cases h : w < 2 ^ (aw + 2) <;> simp [decode, h]

/-! ### Values of `st` (R20, R79 b, R80) -/

theorem decode_seqCode (aw : Nat) (dlab : Bool) (st : SeqState) : decode aw .seq dlab st.code = .ok st.instr := by
  cases st <;> rfl

theorem code_of_seqStateOf {w : Nat} {st : SeqState} (h : seqStateOf w = some st) : st.code = w := by
  unfold seqStateOf at h
  split at h <;> cases h <;> rfl

/-- A value of `st` that decodes is the code of a state, read as its row (R80). -/
theorem decode_seq_eq_ok {aw w : Nat} {dlab : Bool} {i : Instr} :
    decode aw .seq dlab w = .ok i ↔ ∃ st : SeqState, st.code = w ∧ st.instr = i := by
  constructor
  · intro h
    unfold decode at h
    dsimp only at h
    split at h
    · split at h
      · next st hst =>
        cases h
        exact ⟨st, code_of_seqStateOf hst, rfl⟩
      · cases h
    · cases h
  · rintro ⟨st, rfl, rfl⟩
    exact decode_seqCode aw dlab st

theorem instr_format (st : SeqState) : st.instr.format = .seq := by cases st <;> rfl

theorem instr_context (st : SeqState) : st.instr.context = none := by cases st <;> rfl

theorem encode_instr (st : SeqState) : encode st.instr = st.code := by cases st <;> rfl

/-! ### Window transactions (R76 to R78) -/

theorem offset_cases (o : Offset) : o = 0 ∨ o = 1 ∨ o = 2 ∨ o = 3 ∨ o = 4 ∨ o = 5 ∨ o = 6 ∨ o = 7 := by
  revert o
  decide

/-- DLAB is part of a row exactly at offsets 0 and 1 (R77, R78). -/
theorem decodeXact_context (dlab : Bool) (x : XactWord) :
    (decodeXact dlab x).context = if (xactOff x).toNat < 2 then some dlab else none := by
  unfold decodeXact
  generalize xactOff x = o
  rcases offset_cases o with rfl | rfl | rfl | rfl | rfl | rfl | rfl | rfl <;> cases xactRw x <;> cases dlab <;> rfl

/-- At offsets 2 to 7 DLAB is ignored (R77). -/
theorem decodeXact_of_two_le {x : XactWord} (h : 2 ≤ (xactOff x).toNat) (dlab dlab' : Bool) :
    decodeXact dlab x = decodeXact dlab' x := by
  unfold decodeXact
  generalize xactOff x = o at *
  rcases offset_cases o with rfl | rfl | rfl | rfl | rfl | rfl | rfl | rfl
  · exact absurd h (by decide)
  · exact absurd h (by decide)
  all_goals rfl

theorem encode_decodeXact (dlab : Bool) (x : XactWord) : encode (decodeXact dlab x) = x.toNat := by
  conv_rhs => rw [← xactWord_fields x]
  unfold decodeXact
  generalize xactOff x = o
  rcases offset_cases o with rfl | rfl | rfl | rfl | rfl | rfl | rfl | rfl <;> cases xactRw x <;> cases dlab <;> rfl

theorem decode_xact_toNat (aw : Nat) (dlab : Bool) (x : XactWord) :
    decode aw .xact dlab x.toNat = .ok (decodeXact dlab x) := by
  simp [decode, x.isLt]

/-- A number that decodes as a window transaction is one, read under the DLAB held (R77). -/
theorem decode_xact_eq_ok {aw w : Nat} {dlab : Bool} {i : Instr} :
    decode aw .xact dlab w = .ok i ↔ ∃ x : XactWord, x.toNat = w ∧ decodeXact dlab x = i := by
  constructor
  · intro h
    unfold decode at h
    dsimp only at h
    split at h
    · next hw =>
      cases h
      exact ⟨BitVec.ofNat 12 w, by rw [BitVec.toNat_ofNat, Nat.mod_eq_of_lt hw], rfl⟩
    · cases h
  · rintro ⟨x, rfl, rfl⟩
    exact decode_xact_toNat aw dlab x

/-! ### What an instruction says of its word -/

theorem eq_of_fitsDlab {i : Instr} {b dlab : Bool} (hc : i.context = some b) (h : i.fitsDlab dlab = true) :
    b = dlab := by
  simpa [Instr.fitsDlab, hc] using h

theorem fitsDlab_of_context_none {i : Instr} (hc : i.context = none) (dlab : Bool) : i.fitsDlab dlab = true := by
  simp [Instr.fitsDlab, hc]

theorem decodeXact_fitsDlab (dlab : Bool) (x : XactWord) : (decodeXact dlab x).fitsDlab dlab = true := by
  rw [Instr.fitsDlab, decodeXact_context]
  split_ifs <;> simp

/-- Only a command has an operand to fit (R70). -/
theorem fitsWidth_of_not_cmd {i : Instr} (h : i.format ≠ .cmd) (aw : Nat) : i.fitsWidth aw = true := by
  cases i
  case create | size | send | recv => exact absurd rfl h
  all_goals rfl

/-! ### Decode and encode agree -/

/-- The row of a window access is the one its word selects under a DLAB it admits (R77, R78). -/
theorem decodeXact_encode {i : Instr} {dlab : Bool} (hi : i.format = .xact) (hd : i.fitsDlab dlab = true) :
    ∃ x : XactWord, x.toNat = encode i ∧ decodeXact dlab x = i := by
  cases i
  case wrData v | wrDivisorLsb v | wrDivisorMsb v | wrIrqEnable v =>
    obtain rfl := eq_of_fitsDlab rfl hd
    exact ⟨xactWord true _ v, rfl, by simp [decodeXact]⟩
  case rdData lane | rdDivisorLsb lane | rdDivisorMsb lane | rdIrqEnable lane =>
    obtain rfl := eq_of_fitsDlab rfl hd
    exact ⟨xactWord false _ lane, rfl, by simp [decodeXact]⟩
  case wrFifoControl v | wrLineControl v | wrModemControl v | wrLineStatus v | wrOffset6 v | wrOffset7 v =>
    exact ⟨xactWord true _ v, rfl, by simp [decodeXact]⟩
  case rdIrqId lane | rdLineControl lane | rdModemControl lane | rdLineStatus lane | rdOffset6 lane
      | rdOffset7 lane =>
    exact ⟨xactWord false _ lane, rfl, by simp [decodeXact]⟩
  all_goals cases hi

/-- Settles O1: a command's word is read by its two fields, a code of `st` by its value, and a window access by its
offset, its direction and the DLAB its row admits. -/
theorem decodeOfEncodeIsTheInstruction : Obligations.DecodeOfEncodeIsTheInstruction := by
  intro aw i dlab hw hd
  cases i
  case create arg | size arg | send arg | recv arg =>
    have harg : arg < 2 ^ aw := of_decide_eq_true hw
    exact decode_cmd_eq_ok.mpr ⟨cmdWord_lt _ harg, by simp [encode, decodeCmd, cmdArg_cmdWord _ harg]⟩
  case idle | init1 | init2 | init3a | init3b | init4 | init5 | init6 | init7 | txpoll | txwrite | rxpoll | rxread =>
    rfl
  all_goals exact decode_xact_eq_ok.mpr (decodeXact_encode rfl hd)

/-- Settles O2: what decodes is a command word, the code of a state or a transaction word, and each is what its row
encodes to. -/
theorem encodeOfDecodeIsTheWord : Obligations.EncodeOfDecodeIsTheWord := by
  intro aw f dlab w i h
  cases f with
  | cmd =>
    obtain ⟨hw, rfl⟩ := decode_cmd_eq_ok.mp h
    exact ⟨decodeCmd_format aw w, decodeCmd_fitsWidth aw w, fitsDlab_of_context_none (decodeCmd_context aw w) dlab,
      (encode_decodeCmd aw w).trans (cmdWord_fields hw)⟩
  | seq =>
    obtain ⟨st, rfl, rfl⟩ := decode_seq_eq_ok.mp h
    have hf := instr_format st
    exact ⟨hf, fitsWidth_of_not_cmd (by simp [hf]) aw, fitsDlab_of_context_none (instr_context st) dlab,
      encode_instr st⟩
  | xact =>
    obtain ⟨x, rfl, rfl⟩ := decode_xact_eq_ok.mp h
    have hf := decodeXact_format dlab x
    exact ⟨hf, fitsWidth_of_not_cmd (by simp [hf]) aw, decodeXact_fitsDlab dlab x, encode_decodeXact dlab x⟩

/-! ### The rows of the opcode table (R78, R86) -/

/-- The bits of a word that choose its row, by format (R86). -/
def formatMask : Format → Nat
  | .cmd => 0x3
  | .seq => 0xF
  | .xact => 0xF00

/-- The row of the table an instruction belongs to, from its name, format, DLAB and word. -/
def Instr.row (i : Instr) : OpcodeRow :=
  ⟨i.mnemonic, i.format, formatMask i.format, encode i &&& formatMask i.format, i.context⟩

theorem mask_eq_formatMask : ∀ r ∈ opcodeRows, r.mask = formatMask r.format := by decide

/-- Only the masked bits of a word decide which rows it matches. -/
theorem matchingRows_and_mask (f : Format) (dlab : Bool) (w : Nat) :
    matchingRows f dlab (w &&& formatMask f) = matchingRows f dlab w := by
  refine List.filter_congr fun r hr => ?_
  by_cases hf : r.format = f
  · rw [rowMatches, rowMatches, mask_eq_formatMask r hr, hf, Nat.and_assoc, Nat.and_self]
  · simp [rowMatches, hf]

theorem cmdWord_and_mask (op : CmdOp) (arg : Nat) : cmdWord op arg &&& 0x3 = op.bits.toNat := by
  rw [show (0x3 : Nat) = 2 ^ 2 - 1 from rfl, Nat.and_two_pow_sub_one_eq_mod]
  exact (cmdWord_div op arg).2

/-- The mask of a transaction word keeps its bits 11:8. -/
theorem and_xactMask (w : Nat) : w &&& 0xF00 = w / 256 % 16 * 256 := by
  have hlow : (w &&& 0xF00) % 2 ^ 8 = 0 := by
    rw [Nat.and_mod_two_pow, show 0xF00 % 2 ^ 8 = 0 from rfl, Nat.and_zero]
  have hhigh : (w &&& 0xF00) / 2 ^ 8 = w / 2 ^ 8 % 2 ^ 4 := by
    rw [Nat.and_div_two_pow, show 0xF00 / 2 ^ 8 = 2 ^ 4 - 1 from rfl, Nat.and_two_pow_sub_one_eq_mod]
  omega

/-- The data byte takes no part in the choice of a window access's row (R76, R78). -/
theorem xactWord_and_mask (write : Bool) (off : Offset) (d : Byte) :
    (xactWord write off d).toNat &&& 0xF00 = (xactWord write off 0).toNat := by
  have := d.isLt
  have := off.isLt
  rw [and_xactMask, xactWord_toNat, xactWord_toNat]
  cases write <;> simp <;> omega

/-- An instruction's word matches its own row and no other, under every DLAB it admits (R78). -/
theorem matchingRows_encode {i : Instr} {dlab : Bool} (hd : i.fitsDlab dlab = true) :
    matchingRows i.format dlab (encode i) = [i.row] := by
  rw [← matchingRows_and_mask, Instr.row]
  cases i
  case create | size | send | recv =>
    simp only [Instr.format, formatMask, encode, cmdWord_and_mask]
    rfl
  case wrData | rdData | wrDivisorLsb | rdDivisorLsb | wrDivisorMsb | rdDivisorMsb | wrIrqEnable | rdIrqEnable =>
    obtain rfl := eq_of_fitsDlab rfl hd
    simp only [Instr.format, formatMask, encode, xactWord_and_mask]
    rfl
  case wrFifoControl | rdIrqId | wrLineControl | rdLineControl | wrModemControl | rdModemControl | rdLineStatus
      | wrLineStatus | rdOffset6 | wrOffset6 | rdOffset7 | wrOffset7 =>
    simp only [Instr.format, formatMask, encode, xactWord_and_mask]
    rfl
  all_goals rfl

/-- Settles O3: what decodes encodes back to its word, which matches the instruction's row alone; the three values of
`st` without a state are closed numbers. -/
theorem everyWordMatchesExactlyItsRow : Obligations.EveryWordMatchesExactlyItsRow := by
  refine ⟨fun aw f dlab w i h => ?_, fun aw dlab w hlow hhigh => ?_⟩
  · obtain ⟨rfl, -, hd, rfl⟩ := encodeOfDecodeIsTheWord aw f dlab w i h
    exact ⟨i.row, matchingRows_encode hd, rfl, rfl, rfl, rfl⟩
  · obtain rfl | rfl | rfl : w = 13 ∨ w = 14 ∨ w = 15 := by omega
    all_goals exact ⟨rfl, rfl⟩

/-- Settles O4: closed words, each read by its format. -/
theorem wordsOfTheSpecDecode : Obligations.WordsOfTheSpecDecode := by
  unfold Obligations.WordsOfTheSpecDecode
  decide

end Sys2Proof
end

section
/-! What the words make the machine do: a response holds its two fields, a step runs the decoded row, each row of CREATE
makes its transaction, and every response is a named one. -/

namespace Sys2Proof.Machine

variable {s t : State}

/-! ### DLAB and the row of a window access (R77) -/

/-- Settles O5: at offsets 0 and 1 the two rows differ in the DLAB they need, and an access is its row's meaning. -/
theorem dlabSelectsTheRegister : Obligations.DlabSelectsTheRegister := by
  refine ⟨fun w => ⟨fun hoff => ?_, fun hoff => ?_⟩, fun s w => ⟨windowAccess_eq_exec w, dlab_eq s.dev⟩⟩
  · have hcontext (dlab : Bool) : (decodeXact dlab w).context = some dlab := by
      rw [decodeXact_context, if_pos hoff]
    refine ⟨fun h => ?_, hcontext true, hcontext false⟩
    simpa [hcontext] using congrArg Instr.context h
  · exact ⟨decodeXact_of_two_le hoff true false, by rw [decodeXact_context, if_neg (by omega)]⟩

/-! ### Response words (R73, R74) -/

theorem statusOf_reserved {c : BitVec 3} (h : 5 ≤ c.toNat) : statusOf c = none := by
  unfold statusOf
  split
  case h_6 => rfl
  all_goals omega

/-- Settles O7: the two fields of a response word do not meet, and no status has a code above 4. -/
theorem responseWordHoldsStatusAndByte : Obligations.ResponseWordHoldsStatusAndByte :=
  ⟨fun c d => ⟨rspWord_toNat c d, rspStatus_rspWord c d, rspData_rspWord c d⟩, fun _ => statusOf_reserved⟩

/-! ### A step runs the decoded row (R77, R80) -/

/-- Settles O8: the code of `st` decodes to the row the controller's step runs. -/
theorem stepRunsTheRowOfSt : Obligations.StepRunsTheRowOfSt := by
  intro s i hf h
  rw [decode_seqCode] at h
  cases h
  refine ⟨fun hm => ?_, fun rest hm => ?_⟩
  · rw [step_controllerTurn hf (.inl hm), popMove_of_nil hm, controllerStep]
  · rw [step_controllerTurn hf (.inr ⟨rest, hm⟩), popMove, hm]
    rfl

/-- A byte request at an offset of the window of an idle controller is the transaction of that offset (R66, R76). -/
theorem foreignRequest_inside {write : Bool} {off : Offset} {v : Byte} (hst : s.st = .idle)
    (hoff : off.toNat < 2 ^ s.params.addrWidth) :
    foreignRequest ⟨⟨write, effAddr s.params.addrWidth s.params.devBase off, v⟩, 1⟩ s =
      .ok (xactWord write off v) := by
  have := off.isLt
  have hin : ¬ 8 ≤ off.toNat := by omega
  simp [foreignRequest, hst, addrSub_effAddr hoff, hin, reqXact, reqOffset_effAddr hoff]

/-- A request the window accepts runs the row of its transaction under the DLAB of the moment (R77). -/
theorem foreignStep_of_request {a : ForeignAccess} {x : XactWord} (h : foreignRequest a s = .ok x) :
    foreignStep a s = exec (decodeXact s.dlab x) s := by
  rw [foreignStep, h]

/-- Settles O11: the request is the transaction of its offset, which the access decodes under the DLAB held. -/
theorem otherMasterRunsTheDecodedAccess : Obligations.OtherMasterRunsTheDecodedAccess := by
  intro s write off v i haw hf hst h
  rw [decode_xact_toNat] at h
  cases h
  rw [step_foreign hf]
  have hoff := offset_lt_of_four_le haw off
  exact foreignStep_of_request (foreignRequest_inside (s := { s with foreign := none }) hst hoff)

/-! ### The rows of CREATE (R80, R81, R100) -/

/-- A write of the controller in a valid window is the row of its transaction word (R66, R76). -/
theorem regWrite_eq_exec (hv : windowValid s) (off : Offset) (v : Byte) :
    regWrite off v s = exec (decodeXact s.dlab (xactWord true off v)) s := by
  rw [regWrite, issue, underWindow_of hv, reqXact_writeReq (offset_lt_of_fits hv.2 off), windowAccess_eq_exec]

/-- A row of the sequence performs the transaction word of its write and moves on (R100). -/
theorem initRow_performs {i : Instr} {x : XactWord} {n : SeqState} {off : Offset} {v : Byte} (hv : windowValid s)
    (hi : exec i s = initWrite off v n s) (hx : xactWord true off v = x) (h : windowWrite off v s = .next t) :
    ∃ t, exec (decodeXact s.dlab x) s = .next t ∧ exec i s = .next { t with st := n } := by
  refine ⟨t, ?_, hi.trans (initWrite_next.mpr ⟨hv, t, h, rfl⟩)⟩
  rw [← hx, ← regWrite_eq_exec hv]
  exact regWrite_next.mpr ⟨hv, h⟩

/-- Settles O17: the words of the table are those of the rows' writes, and the five offsets written all absorb one. -/
theorem initRowsPerformTheirTransactions : Obligations.InitRowsPerformTheirTransactions := by
  intro s hv
  refine ⟨?_, ?_⟩
  · simp only [List.forall_mem_cons]
    refine ⟨?_, ?_, ?_, ?_, ?_, ?_, ?_, nofun⟩
    · exact initRow_performs hv rfl rfl (windowWrite_ier ierOff)
    · exact initRow_performs hv rfl rfl (windowWrite_lcr lcrDlab)
    · exact initRow_performs hv rfl rfl (windowWrite_data dllInit)
    · exact initRow_performs hv rfl rfl (windowWrite_ier dlmInit)
    · exact initRow_performs hv rfl rfl (windowWrite_lcr lcr8n1)
    · exact initRow_performs hv rfl rfl (windowWrite_fcr fcrInit)
    · exact initRow_performs hv rfl rfl (windowWrite_mcr mcrInit)
  · have hwrite := regWrite_next.mpr ⟨hv, windowWrite_ier ierRx⟩
    rw [regWrite_eq_exec hv] at hwrite
    exact ⟨_, hwrite, execInit7_next.mpr ⟨hv, rfl⟩⟩

/-! ### Every response is a named one (R74, R97, R200 to R204) -/

/-- The status and byte a controller step may answer with at `s`: Ok with any byte, a failure with 0x00 and only where
its rule raises it (R96, R123), InitError never (R203). -/
def mayAnswer (s : State) : Status → Byte → Prop
  | .ok, _ => True
  | .transmitTimeout, d => d = 0x00#8 ∧ s.st = .txpoll ∧ s.cnt = s.params.budget
  | .receiveTimeout, d => d = 0x00#8 ∧ s.st = .rxpoll ∧ s.cnt = s.params.budget
  | .initError, _ => False
  | .notCreated, d => d = 0x00#8 ∧ s.st = .idle ∧ s.inited = false

/-- Everything a controller step can do to the responses: nothing, or one of the answers its state allows. -/
theorem controllerStep_rsp (h : controllerStep s = .next t) :
    t.rsp = s.rsp ∨ ∃ c d, t.rsp = s.rsp ++ [rspWord c d] ∧ mayAnswer s c d := by
  have hr := controllerStep_next.mp h
  cases hst : s.st <;> rw [hst] at hr
  case idle =>
    rcases hr with ⟨-, rfl⟩ | ⟨w, ws, -, hc⟩
    · exact .inl rfl
    · rcases (execCommand_idle (s := { s with port := ws }) hst w).mp hc with
        ⟨-, -, rfl⟩ | ⟨-, rfl⟩ | ⟨-, -, rfl⟩ | ⟨-, -, rfl⟩ | ⟨-, hi, rfl⟩
      · exact .inl rfl
      · exact .inr ⟨.ok, _, rfl, trivial⟩
      · exact .inl rfl
      · exact .inl rfl
      · exact .inr ⟨.notCreated, _, rfl, rfl, hst, hi⟩
  case txpoll =>
    rcases hr with ⟨hc, rfl⟩ | ⟨-, -, rfl⟩
    · exact .inr ⟨.transmitTimeout, _, rfl, rfl, hst, hc⟩
    · exact .inl rfl
  case rxpoll =>
    rcases hr with ⟨hc, rfl⟩ | ⟨-, -, rfl⟩
    · exact .inr ⟨.receiveTimeout, _, rfl, rfl, hst, hc⟩
    · exact .inl rfl
  case init7 | txwrite | rxread =>
    obtain ⟨-, rfl⟩ := hr
    exact .inr ⟨.ok, _, rfl, trivial⟩
  all_goals
    obtain ⟨-, rfl⟩ := hr
    exact .inl rfl

/-- A step that adds a response is the controller's: no other move and no foreign access adds one (R7, R73). -/
theorem controllerStep_of_rsp_append {w : RspWord} (h : step s = .next t) (hw : t.rsp = s.rsp ++ [w]) :
    controllerStep (popMove s) = .next t := by
  have hlen := congrArg List.length hw
  rw [List.length_append, List.length_singleton] at hlen
  rcases step_next.mp h with ⟨-, hm⟩ | ⟨a, -, hf⟩
  · rcases moveStep_next.mp hm with
      ⟨-, hc⟩ | ⟨w, rest, -, rfl⟩ | ⟨rest, -, rfl⟩ | ⟨e, rest, -, rfl⟩ | ⟨rest, -, rfl⟩
    · exact hc
    · simp at hlen
    · rw [hostTake_rsp, popMove_rsp, List.length_tail] at hlen
      omega
    · simp at hlen
    · simp at hlen
  · obtain ⟨-, -, -, -, -, -, -, hrsp, -⟩ := foreignStep_frame hf
    simp [hrsp] at hlen

/-- Settles O51: only the controller adds a response, and of the named ones it answers only what its state allows. -/
theorem responsesAreNamedResults : Obligations.ResponsesAreNamedResults := by
  intro s t w h hw
  rcases controllerStep_rsp (controllerStep_of_rsp_append h hw) with hsame | ⟨c, d, hcd, hmay⟩
  · simp [hw] at hsame
  · obtain rfl : w = rspWord c d := by simpa [hw] using hcd
    refine ⟨c, rspStatus_rspWord c d, ?_⟩
    rw [rspData_rspWord]
    cases c with
    | ok => exact ⟨nofun, fun hne => absurd rfl hne, nofun, nofun, nofun⟩
    | initError => exact hmay.elim
    | transmitTimeout =>
      obtain ⟨hd, hat⟩ := hmay
      exact ⟨nofun, fun _ => hd, fun _ => hat, nofun, nofun⟩
    | receiveTimeout =>
      obtain ⟨hd, hat⟩ := hmay
      exact ⟨nofun, fun _ => hd, nofun, fun _ => hat, nofun⟩
    | notCreated =>
      obtain ⟨hd, hat⟩ := hmay
      exact ⟨nofun, fun _ => hd, nofun, nofun, fun _ => hat⟩

end Sys2Proof.Machine
end

section
/-! The host commands (40_commands.md): which word IDLE accepts and how, what a busy controller does with one, that each
accepted command is answered once, and the host's moves at the two ports. -/

namespace Sys2Proof.Machine

variable {s t : State}

/-! ### Each command, accepted in IDLE (R91 to R94, R96) -/

/-- In IDLE a command is accepted (R90). -/
theorem whenIdle_of_idle (h : s.st = .idle) (w : Nat) (accept : State → Result) : whenIdle w accept s = accept s :=
  if_pos h

/-- At any other time it is held at the port (R95). -/
theorem whenIdle_of_busy (h : s.st ≠ .idle) (w : Nat) (accept : State → Result) :
    whenIdle w accept s = .next (hold w s) :=
  if_neg h

/-- In IDLE an answer changes the responses only: the state it leads to is the one it stands in. -/
theorem finish_of_idle (h : s.st = .idle) (c : Status) (b : Byte) :
    finish c b s = { s with rsp := s.rsp ++ [rspWord c b] } := by
  rw [finish, goto, ← h]
  rfl

/-- So does a failure raised there (R96, R200). -/
theorem raise_of_idle (h : s.st = .idle) (f : Failure) :
    raise f s = { s with rsp := s.rsp ++ [rspWord (failureStatus f) 0x00#8] } :=
  finish_of_idle h _ _

theorem execSize_idle (h : s.st = .idle) (arg : Nat) : execSize arg s = .next (finish .ok windowSize s) := by
  rw [execSize, whenIdle_of_idle h]

theorem execSend_idle (h : s.st = .idle) (arg : Nat) : execSend arg s =
    if s.inited then .next (goto .txpoll { s with val := sendOperand arg, cnt := 0 })
    else .next (raise .notCreated s) := by
  rw [execSend, whenIdle_of_idle h]

theorem execRecv_idle (h : s.st = .idle) (arg : Nat) : execRecv arg s =
    if s.inited then .next (goto .rxpoll { s with cnt := 0 }) else .next (raise .notCreated s) := by
  rw [execRecv, whenIdle_of_idle h]

/-- A window that passes the top is refused by its name (R51). -/
theorem underWindow_wraps {base : Nat} {k : State → Result} (h : 2 ^ s.params.addrWidth ≤ base + 7) :
    underWindow base k s = .refused .windowWraps := by
  simp [underWindow, windowPassesTop, h]

/-- A window that fits but is not the device's is refused by another (R59). -/
theorem underWindow_notDevice {base : Nat} {k : State → Result} (h : base + 7 < 2 ^ s.params.addrWidth)
    (hb : base ≠ s.params.devBase) : underWindow base k s = .refused .windowNotDevice := by
  simp [underWindow, windowPassesTop, Nat.not_le.mpr h, hb]

theorem windowAt_of_fits {p : Params} {base : Nat} (h : base + 7 < 2 ^ p.addrWidth) (hb : base = p.devBase) :
    windowAt p base :=
  ⟨hb, decide_eq_false (Nat.not_le.mpr h)⟩

/-- Settles O12: the operand's window passes the top, or is the device's, or is another. -/
theorem createIsAccepted : Obligations.CreateIsAccepted := by
  intro s arg hst
  have hexec : exec (.create arg) s = underWindow arg _ s := whenIdle_of_idle hst _ _
  refine ⟨fun hwrap => ?_, fun hfits => ⟨fun hdev => ?_, fun hdev => ?_⟩⟩
  · rw [hexec, underWindow_wraps hwrap]
  · exact (execCreate_idle hst arg).mpr ⟨windowAt_of_fits hfits hdev, rfl⟩
  · rw [hexec, underWindow_notDevice hfits hdev]

/-- The operation of a command word whose low two bits are its code (R70, R71). -/
theorem cmdOp_of_mod_four {w : Nat} {op : CmdOp} (h : w % 4 = op.bits.toNat) : cmdOp w = op := by
  rw [mod_four_eq_bits] at h
  rw [← cmdOpOf_bits (cmdOp w), BitVec.eq_of_toNat_eq h, cmdOpOf_bits]

/-- Settles O13: the answer is Ok with the byte 8, in IDLE the only change. -/
theorem sizeAnswersEight : Obligations.SizeAnswersEight := by
  refine ⟨fun aw w hw => ?_, fun s arg hst => (execSize_idle hst arg).trans ?_⟩
  · rw [decodeCmd, cmdOp_of_mod_four (op := .size) hw, cmdArg]
  · rw [finish_of_idle hst]
    rfl

/-- Settles O14: with a device created, the test of `inited` passes. -/
theorem sendAndRecvAreAccepted : Obligations.SendAndRecvAreAccepted := fun _ arg hst hi =>
  ⟨(execSend_idle hst arg).trans (if_pos hi), (execRecv_idle hst arg).trans (if_pos hi)⟩

/-- Settles O15: without a device the test of `inited` fails, and in IDLE the answer is the only change. -/
theorem useBeforeCreateAnswersNotCreated : Obligations.UseBeforeCreateAnswersNotCreated := by
  intro s arg hst hi
  have hraise := congrArg (Host.Outcome.next (φ := Fault) (ρ := Refusal)) (raise_of_idle hst .notCreated)
  exact ⟨(execSend_idle hst arg).trans ((if_neg (by simp [hi])).trans hraise),
    (execRecv_idle hst arg).trans ((if_neg (by simp [hi])).trans hraise)⟩

/-! ### The dispatch of IDLE (R90) -/

/-- The dispatch runs the row the oldest word decodes to, with the word consumed. -/
theorem execIdle_of_cons {w : Nat} {ws : List Nat} (h : s.port = w :: ws) :
    execIdle s = exec (decodeCmd s.params.addrWidth w) { s with port := ws } := by
  rw [execIdle, h]
  exact execCommand_eq_exec w

/-- Settles O9: a word decodes in the command format to one row only, whatever its width. -/
theorem idleRunsTheDecodedCommand : Obligations.IdleRunsTheDecodedCommand := by
  refine fun s => ⟨fun hp => execIdle_next.mpr (.inl ⟨hp, rfl⟩), fun w ws i hp hd => ?_⟩
  obtain ⟨-, rfl⟩ := decode_cmd_eq_ok.mp hd
  exact execIdle_of_cons hp

/-- Settles O10: the word consumed, the dispatch is the acceptance of its operation. -/
theorem idleAcceptsTheOldestCommand : Obligations.IdleAcceptsTheOldestCommand := by
  intro s w ws hst hp
  have hidle : exec .idle s = execCommand w { s with port := ws } := by
    rw [execCommand_eq_exec]
    exact execIdle_of_cons hp
  rw [hidle, execCommand]
  refine ⟨fun hw => ?_, fun hw => ?_, fun hw hi => ?_, fun hw hi => ?_, fun hw hi => ?_⟩
  · rw [cmdOp_of_mod_four (op := .create) hw]
    exact createIsAccepted { s with port := ws } _ hst
  · rw [cmdOp_of_mod_four (op := .size) hw]
    exact sizeAnswersEight.2 { s with port := ws } _ hst
  · rw [cmdOp_of_mod_four (op := .send) hw]
    exact (sendAndRecvAreAccepted { s with port := ws } _ hst hi).1
  · rw [cmdOp_of_mod_four (op := .recv) hw]
    exact (sendAndRecvAreAccepted { s with port := ws } (cmdArg s.params.addrWidth w) hst hi).2
  · obtain ⟨hsend, hrecv⟩ := useBeforeCreateAnswersNotCreated { s with port := ws } (cmdArg s.params.addrWidth w) hst hi
    rcases (by omega : w % 4 = 2 ∨ w % 4 = 3) with hw | hw
    · rw [cmdOp_of_mod_four (op := .send) hw]
      exact hsend
    · rw [cmdOp_of_mod_four (op := .recv) hw]
      exact hrecv

/-! ### A busy controller (R95), and the one answer of each command (R97) -/

/-- A busy controller leaves the port alone. -/
theorem controllerStep_port_of_busy (hst : s.st ≠ .idle) (h : controllerStep s = .next t) : t.port = s.port := by
  have hr := controllerStep_next.mp h
  cases hs : s.st <;> rw [hs] at hr
  case idle => exact absurd hs hst
  case txpoll | rxpoll => rcases hr with ⟨-, rfl⟩ | ⟨-, -, rfl⟩ <;> rfl
  all_goals
    obtain ⟨-, rfl⟩ := hr
    rfl

/-- Settles O16: presented to a busy controller every command is held as its own word, and no other row reads the
port. -/
theorem busyControllerHoldsCommands : Obligations.BusyControllerHoldsCommands := by
  refine ⟨fun s w hst hw => ?_, fun s t => controllerStep_port_of_busy⟩
  have hword := cmdWord_fields hw
  rw [← execCommand_eq_exec, execCommand]
  cases hop : cmdOp w
  all_goals
    rw [hop] at hword
    refine (whenIdle_of_busy hst _ _).trans ?_
    rw [hword]
    rfl

/-- The acceptance of a command in IDLE answers it exactly when it ends there (R92, R96, R97). -/
theorem execCommand_rsp {w : Nat} (hst : s.st = .idle) (h : execCommand w s = .next t) :
    if t.st = .idle then ∃ r, t.rsp = s.rsp ++ [r] else t.rsp = s.rsp := by
  rcases (execCommand_idle hst w).mp h with
    ⟨-, -, rfl⟩ | ⟨-, rfl⟩ | ⟨-, -, rfl⟩ | ⟨-, -, rfl⟩ | ⟨-, -, rfl⟩ <;> simp

/-- Settles O50: a command ends in IDLE, and it is the rows that lead there that answer. -/
theorem oneResponseEndsEachCommand : Obligations.OneResponseEndsEachCommand := by
  intro s t h
  have hr := controllerStep_next.mp h
  cases hst : s.st <;> rw [hst] at hr
  case idle =>
    rcases hr with ⟨hp, rfl⟩ | ⟨w, ws, hp, hc⟩
    · simp [hp]
    · simpa [hp] using execCommand_rsp (s := { s with port := ws }) hst hc
  case txpoll | rxpoll =>
    rcases hr with ⟨-, rfl⟩ | ⟨-, -, rfl⟩
    · simp
    · split <;> simp
  all_goals
    obtain ⟨-, rfl⟩ := hr
    simp

/-! ### The host's moves (R7, R95) -/

/-- Settles O41: the two moves of the host, each taken off the list. -/
theorem hostOffersAndTakes : Obligations.HostOffersAndTakes := by
  intro s rest hf
  refine ⟨fun w hm => ?_, fun hm => ?_⟩
  all_goals
    rw [step_own hf, moveStep, hm]
    rfl

end Sys2Proof.Machine
end

section
/-! Whole commands when only the controller moves (40_commands.md R91, R93, R94): CREATE row by row, and the poll loop
with the transfer after it. -/

namespace Sys2Proof.Machine

variable {s t u : State}

/-- A controller step is what the row of its state leads to (R80). -/
theorem controllerStep_of_row {n : SeqState} (hst : s.st = n) (h : rowLeads n s t) : controllerStep s = .next t :=
  controllerStep_next.mpr (hst.symm ▸ h)

/-! ### CREATE (R91, R100, R111) -/

/-- The controller alone moves and stands at row `n` of a CREATE whose window is valid, the device programmed as far as
the rows before have come. -/
structure AtRow (n : SeqState) (s : State) : Prop where
  exclusive : noOtherMaster s
  moves     : s.moves = []
  window    : windowValid s
  st        : s.st = n
  program   : programmedSoFar n s.dev

/-- At `t` the CREATE in progress at `s` has ended, its remaining writes made and Ok answered. -/
structure Completes (writes : List BusEvent) (s t : State) : Prop where
  trace   : t.trace = s.trace ++ writes
  rsp     : t.rsp = s.rsp ++ [0x000#11]
  st      : t.st = .idle
  inited  : t.inited = true
  program : deviceProgrammed t.dev
  base    : t.base = s.base
  port    : t.port = s.port
  val     : t.val = s.val
  cnt     : t.cnt = s.cnt
  params  : t.params = s.params

/-- From row `n` a CREATE completes in `k` steps with these writes. -/
def completesFrom (n : SeqState) (k : Nat) (writes : List BusEvent) : Prop :=
  ∀ s, AtRow n s → ∃ t, runFor k s = .next t ∧ Completes writes s t

/-- A row that makes a write and moves on puts that write before those of the rows after it. -/
theorem completesFrom_write {n m : SeqState} {r : State → WriteReg} {off : Offset} {v : Byte} {k : Nat}
    {writes : List BusEvent} (hm : completesFrom m k writes)
    (hrow : ∀ s, windowValid s → rowLeads n s (goto m (deviceWrite (r s) off v s)))
    (hprogram : ∀ s : State, programmedSoFar n s.dev →
      programmedSoFar m (s.dev.write s.params.fifoDepth (r s) v s.draws)) :
    completesFrom n (k + 1) (.wr off v :: writes) := by
  intro s h
  have hstep : controllerStep s = .next (goto m (deviceWrite (r s) off v s)) :=
    controllerStep_of_row h.st (hrow s h.window)
  have hnext : AtRow m (goto m (deviceWrite (r s) off v s)) :=
    ⟨h.exclusive, h.moves, h.window, rfl, hprogram s h.program⟩
  obtain ⟨t, hrun, hc⟩ := hm _ hnext
  refine ⟨t, runFor_controller h.exclusive h.moves hstep hrun, { hc with trace := ?_ }⟩
  simpa using hc.trace

/-- The last row sets `inited`, answers Ok and leaves the device programmed (R108, R42). -/
theorem completesFrom_init7 : completesFrom .init7 1 [.wr offIer ierRx] := by
  intro s h
  refine ⟨_, runFor_controller h.exclusive h.moves (controllerStep_of_row h.st ⟨h.window, rfl⟩) rfl, ?_⟩
  exact ⟨rfl, rfl, rfl, rfl, deviceProgrammed_of_init7 h.program, rfl, rfl, rfl, rfl, rfl⟩

/-- The rows of a CREATE make the writes of `initTrace`, each under the DLAB the rows before it have set
(R100, R111). -/
theorem completesFrom_init1 : completesFrom .init1 8 initTrace := by
  have h6 := completesFrom_write (n := .init6) completesFrom_init7 (fun _ => (⟨·, rfl⟩)) fun _ => programmedSoFar_init7
  have h5 := completesFrom_write (n := .init5) h6 (fun _ => (⟨·, rfl⟩)) fun _ => programmedSoFar_init6
  have h4 := completesFrom_write (n := .init4) h5 (fun _ => (⟨·, rfl⟩)) fun _ => programmedSoFar_init5
  have h3b := completesFrom_write (n := .init3b) h4 (fun _ => (⟨·, rfl⟩)) fun _ => programmedSoFar_init4
  have h3a := completesFrom_write (n := .init3a) h3b (fun _ => (⟨·, rfl⟩)) fun _ => programmedSoFar_init3b
  have h2 := completesFrom_write (n := .init2) h3a (fun _ => (⟨·, rfl⟩)) fun _ _ => programmedSoFar_init3a
  exact completesFrom_write (n := .init1) h2 (fun _ => (⟨·, rfl⟩)) fun _ _ => trivial

/-- The dispatch of an idle controller runs the row the oldest word decodes to (R90). -/
theorem controllerStep_of_offered {w : Nat} {ws : List Nat} {i : Instr} (hst : s.st = .idle) (hp : s.port = w :: ws)
    (hd : decodeCmd s.params.addrWidth w = i) : controllerStep s = exec i { s with port := ws } := by
  rw [controllerStep_idle hst, execIdle_of_cons hp, hd]

/-- The device's own window is valid under the constraints on the parameters (R59, D35). -/
theorem windowAt_devBase {p : Params} (h : p.wellFormed = true) : windowAt p p.devBase := by
  refine windowAt_of_fits ?_ rfl
  simp [Params.wellFormed] at h
  omega

/-- Settles O56: IDLE accepts the CREATE and the eight rows complete it. -/
theorem createMakesTheEightWrites : Obligations.CreateMakesTheEightWrites := by
  intro s w ws a hf hm hst hp hd ha hwf
  have hv : windowAt s.params a := ha ▸ windowAt_devBase hwf
  have haccept : controllerStep s = .next (goto .init1 { s with port := ws, base := a, inited := false }) :=
    (controllerStep_of_offered hst hp hd).trans ((execCreate_idle (s := { s with port := ws }) hst a).mpr ⟨hv, rfl⟩)
  have hrow : AtRow .init1 (goto .init1 { s with port := ws, base := a, inited := false }) :=
    ⟨hf, hm, hv, rfl, trivial⟩
  obtain ⟨t, hrun, hc⟩ := completesFrom_init1 _ hrow
  exact ⟨t, runFor_controller hf hm haccept hrun, hc.trace, hc.rsp, hc.st, hc.inited, hc.base, hc.program,
    hc.program.dlab, hc.port, hc.val, hc.cnt, hc.params⟩

/-! ### The poll loop of SEND and RECV (R121, R123, R129) -/

/-- The polls between `s` and `u`: each reads LINE_STATUS and is counted, and nothing else of the controller changes. -/
structure Polled (polls : List Byte) (s u : State) : Prop where
  cnt     : u.cnt = s.cnt + polls.length
  budget  : u.cnt ≤ u.params.budget
  trace   : u.trace = s.trace ++ polls.map (BusEvent.rd offLsr)
  params  : u.params = s.params
  base    : u.base = s.base
  inited  : u.inited = s.inited
  val     : u.val = s.val
  port    : u.port = s.port
  rsp     : u.rsp = s.rsp
  moves   : u.moves = s.moves
  foreign : u.foreign = s.foreign

theorem Polled.none (h : s.cnt ≤ s.params.budget) : Polled [] s s :=
  ⟨rfl, h, by simp, rfl, rfl, rfl, rfl, rfl, rfl, rfl, rfl⟩

/-- `s` after one counted poll that leads to `n` (R121). -/
def afterPoll (n : SeqState) (s : State) : State :=
  goto n { deviceRead .lineStatus offLsr s with cnt := cntNext s.params.budget s.cnt }

theorem Polled.one (n : SeqState) (h : s.cnt < s.params.budget) :
    Polled [(deviceRead .lineStatus offLsr s).rdata] s (afterPoll n s) := by
  have hcnt : (afterPoll n s).cnt = s.cnt + 1 := cntNext_of_lt h
  exact ⟨hcnt, hcnt.trans_le h, rfl, rfl, rfl, rfl, rfl, rfl, rfl, rfl, rfl⟩

/-- Within the budget a step of the polling unit is such a poll, and the byte read decides where it leads (R121). -/
theorem pollStep_of_lt {mask : Byte} {hitSt missSt : SeqState} {f : Failure} (h : s.cnt < s.params.budget)
    (hv : windowValid s) : pollStep mask hitSt missSt f s =
      .next (afterPoll (if hit mask (deviceRead .lineStatus offLsr s).rdata then hitSt else missSt) s) :=
  pollStep_next.mpr (.inr ⟨h.ne, hv, rfl⟩)

theorem Polled.trans {p q : List Byte} (h₁ : Polled p s t) (h₂ : Polled q t u) : Polled (p ++ q) s u where
  cnt := by rw [h₂.cnt, h₁.cnt, List.length_append, Nat.add_assoc]
  budget := h₂.budget
  trace := by rw [h₂.trace, h₁.trace, List.map_append, List.append_assoc]
  params := h₂.params.trans h₁.params
  base := h₂.base.trans h₁.base
  inited := h₂.inited.trans h₁.inited
  val := h₂.val.trans h₁.val
  port := h₂.port.trans h₁.port
  rsp := h₂.rsp.trans h₁.rsp
  moves := h₂.moves.trans h₁.moves
  foreign := h₂.foreign.trans h₁.foreign

theorem Polled.windowValid {polls : List Byte} (h : Polled polls s u) (hv : windowValid s) : windowValid u := by
  rw [Machine.windowValid, h.params, h.base]
  exact hv

/-- No byte read shows the masked bit. -/
def allMiss (mask : Byte) (polls : List Byte) : Prop := ∀ x ∈ polls, x &&& mask = 0#8

/-- The last byte read, and it alone, shows the masked bit. -/
def lastHits (mask : Byte) (polls : List Byte) : Prop :=
  ∃ misses b, polls = misses ++ [b] ∧ allMiss mask misses ∧ b &&& mask ≠ 0#8

theorem lastHits_cons {mask b : Byte} {polls : List Byte} (hb : b &&& mask = 0#8) :
    lastHits mask polls → lastHits mask (b :: polls) := by
  rintro ⟨misses, c, rfl, hmiss, hc⟩
  exact ⟨b :: misses, c, rfl, List.forall_mem_cons.mpr ⟨hb, hmiss⟩, hc⟩

/-- The polls have ended, with a hit or with the budget used up (R122, R123). -/
def pollsEnd (mask : Byte) (hitSt pollSt : SeqState) (polls : List Byte) (u : State) : Prop :=
  u.st = hitSt ∧ lastHits mask polls ∨ u.st = pollSt ∧ u.cnt = u.params.budget ∧ allMiss mask polls

theorem pollsEnd_cons {mask b : Byte} {hitSt pollSt : SeqState} {polls : List Byte} (hb : b &&& mask = 0#8) :
    pollsEnd mask hitSt pollSt polls u → pollsEnd mask hitSt pollSt (b :: polls) u := by
  rintro (⟨hst, hlast⟩ | ⟨hst, hcnt, hmiss⟩)
  · exact .inl ⟨hst, lastHits_cons hb hlast⟩
  · exact .inr ⟨hst, hcnt, List.forall_mem_cons.mpr ⟨hb, hmiss⟩⟩

/-- The controller alone moves and stands at the poll state `pollSt`, within the budget, under a valid window. -/
structure AtPoll (pollSt : SeqState) (s : State) : Prop where
  exclusive : noOtherMaster s
  moves     : s.moves = []
  window    : windowValid s
  st        : s.st = pollSt
  budget    : s.cnt ≤ s.params.budget

/-- From a poll state the polls end, one controller step each: by induction on what is left of the budget (R129). -/
theorem polls_end {mask : Byte} {hitSt pollSt : SeqState} {f : Failure}
    (hrow : ∀ s, s.st = pollSt → controllerStep s = pollStep mask hitSt pollSt f s) (s : State) (h : AtPoll pollSt s) :
    ∃ u polls, runFor polls.length s = .next u ∧ Polled polls s u ∧ pollsEnd mask hitSt pollSt polls u := by
  induction hleft : s.params.budget - s.cnt generalizing s with
  | zero => exact ⟨s, [], rfl, .none h.budget, .inr ⟨h.st, by have := h.budget; omega, nofun⟩⟩
  | succ left ih =>
    have hlt : s.cnt < s.params.budget := by omega
    have hstep := (hrow s h.st).trans (pollStep_of_lt hlt h.window)
    by_cases hh : hit mask (deviceRead .lineStatus offLsr s).rdata
    · rw [if_pos hh] at hstep
      exact ⟨_, _, runFor_controller h.exclusive h.moves hstep rfl, .one hitSt hlt,
        .inl ⟨rfl, [], _, rfl, nofun, (hit_iff _ _).mp hh⟩⟩
    · rw [if_neg hh] at hstep
      have hone := Polled.one pollSt hlt
      have hnext : AtPoll pollSt (afterPoll pollSt s) := ⟨h.exclusive, h.moves, h.window, rfl, hone.budget⟩
      obtain ⟨u, polls, hrun, hp, hend⟩ := ih _ hnext (by rw [hone.cnt, hone.params, List.length_singleton]; omega)
      exact ⟨u, _ :: polls, runFor_controller h.exclusive h.moves hstep hrun, hone.trans hp,
        pollsEnd_cons (by simpa [hit_iff] using hh) hend⟩

/-- A whole transfer: the accepting step, a step for each poll, and the one that ends it. -/
theorem runFor_transfer {pollSt : SeqState} {s₁ : State} {polls : List Byte} (hf : noOtherMaster s) (hm : s.moves = [])
    (haccept : controllerStep s = .next s₁) (hat : AtPoll pollSt s₁) (hrun : runFor polls.length s₁ = .next u)
    (hp : Polled polls s₁ u) (hlast : controllerStep u = .next t) : runFor (polls.length + 2) s = .next t := by
  refine runFor_controller hf hm haccept ?_
  rw [runFor_add hrun]
  exact runFor_controller (hp.foreign.trans hat.exclusive) (hp.moves.trans hat.moves) hlast rfl

theorem controllerStep_txpoll (s : State) (h : s.st = .txpoll) :
    controllerStep s = pollStep lsrThre .txwrite .txpoll .transmitTimeout s := by
  rw [controllerStep, h]
  rfl

theorem controllerStep_rxpoll (s : State) (h : s.st = .rxpoll) :
    controllerStep s = pollStep lsrDr .rxread .rxpoll .receiveTimeout s := by
  rw [controllerStep, h]
  rfl

/-- Settles O57: IDLE accepts the SEND, the polls end, and after a hit TXWRITE writes, without one TXPOLL gives up. -/
theorem sendPollsThenWritesOnceOrNever : Obligations.SendPollsThenWritesOnceOrNever := by
  intro s w ws a hf hm hst hp hd hi hv
  have haccept := (controllerStep_of_offered hst hp hd).trans
    (sendAndRecvAreAccepted { s with port := ws } a hst hi).1
  have hat : AtPoll .txpoll { s with port := ws, val := BitVec.ofNat 8 a, cnt := 0, st := .txpoll } :=
    ⟨hf, hm, hv, rfl, Nat.zero_le _⟩
  obtain ⟨u, polls, hrun, hu, hend⟩ := polls_end controllerStep_txpoll _ hat
  have htotal {t} := runFor_transfer (t := t) hf hm haccept hat hrun hu
  have hcnt : u.cnt = polls.length := hu.cnt.trans (Nat.zero_add _)
  have hbudget : polls.length ≤ s.params.budget := by rw [← hcnt, ← hu.params]; exact hu.budget
  rcases hend with ⟨hst', misses, b, hpolls, hmiss, hb⟩ | ⟨hst', hfull, hmiss⟩
  · refine ⟨_, polls, htotal (controllerStep_of_row hst' ⟨hu.windowValid hv, rfl⟩), rfl, hu.inited.trans hi, hu.base,
      hu.port, hu.params, hu.val, hcnt, hbudget, .inl ⟨misses, b, hpolls, hmiss, hb, ?_, ?_⟩⟩
    · rw [finish_trace, deviceWrite_trace, hu.trace, hu.val]
      rfl
    · rw [finish_rsp, deviceWrite_rsp, hu.rsp]
      rfl
  · refine ⟨_, polls, htotal (controllerStep_of_row hst' (.inl ⟨hfull, rfl⟩)), rfl, hu.inited.trans hi, hu.base,
      hu.port, hu.params, hu.val, hcnt, hbudget, .inr ⟨by rw [← hcnt, hfull, hu.params], hmiss, hu.trace, ?_⟩⟩
    rw [raise_rsp, hu.rsp]
    rfl

/-- Settles O58: IDLE accepts the RECV, the polls end, and after a hit RXREAD reads, without one RXPOLL gives up. -/
theorem recvPollsThenReadsOnceOrNever : Obligations.RecvPollsThenReadsOnceOrNever := by
  intro s w ws a hf hm hst hp hd hi hv
  have haccept := (controllerStep_of_offered hst hp hd).trans
    (sendAndRecvAreAccepted { s with port := ws } a hst hi).2
  have hat : AtPoll .rxpoll { s with port := ws, cnt := 0, st := .rxpoll } := ⟨hf, hm, hv, rfl, Nat.zero_le _⟩
  obtain ⟨u, polls, hrun, hu, hend⟩ := polls_end controllerStep_rxpoll _ hat
  have htotal {t} := runFor_transfer (t := t) hf hm haccept hat hrun hu
  have hcnt : u.cnt = polls.length := hu.cnt.trans (Nat.zero_add _)
  have hbudget : polls.length ≤ s.params.budget := by rw [← hcnt, ← hu.params]; exact hu.budget
  rcases hend with ⟨hst', misses, b, hpolls, hmiss, hb⟩ | ⟨hst', hfull, hmiss⟩
  · refine ⟨_, polls, htotal (controllerStep_of_row hst' ⟨hu.windowValid hv, rfl⟩), rfl, hu.inited.trans hi, hu.base,
      hu.port, hu.params, hu.val, hcnt, hbudget, .inl ⟨misses, b,
        (deviceRead (if u.dlab then .divisorLsb else .data) offData u).rdata, hpolls, hmiss, hb, ?_, ?_⟩⟩
    · rw [finish_trace, deviceRead_trace, hu.trace]
      rfl
    · rw [finish_rsp, deviceRead_rsp, hu.rsp]
      rfl
  · refine ⟨_, polls, htotal (controllerStep_of_row hst' (.inl ⟨hfull, rfl⟩)), rfl, hu.inited.trans hi, hu.base,
      hu.port, hu.params, hu.val, hcnt, hbudget, .inr ⟨by rw [← hcnt, hfull, hu.params], hmiss, hu.trace, ?_⟩⟩
    rw [raise_rsp, hu.rsp]
    rfl

end Sys2Proof.Machine
end

section
/-! Every command ends (R95, R129 e, R246): how `stepsLeft` goes over the controller's rows and the other moves. -/

namespace Sys2Proof.Machine

variable {s t : State}

/-- IDLE has no command in progress, and every other state a step to take. -/
theorem stepsLeft_eq_zero_iff : stepsLeft s = 0 ↔ s.st = .idle := by
  unfold stepsLeft
  cases s.st <;> simp

theorem stepsLeft_of_idle (h : s.st = .idle) : stepsLeft s = 0 := stepsLeft_eq_zero_iff.mpr h

/-- `stepsLeft` reads the parameters, `st` and `cnt`. -/
theorem stepsLeft_congr (hp : t.params = s.params) (hst : t.st = s.st) (hc : t.cnt = s.cnt) :
    stepsLeft t = stepsLeft s := by
  rw [stepsLeft, hp, hst, hc, stepsLeft]

theorem stepsLeft_popMove : stepsLeft (popMove s) = stepsLeft s := stepsLeft_congr rfl rfl rfl

/-- While a command is in progress the window is valid: under a CREATE by its acceptance, under a transfer since a
CREATE has completed (R51, R59). -/
theorem RunInv.windowValid_of_busy (h : RunInv s) (hst : s.st ≠ .idle) : windowValid s := by
  obtain ⟨hcreated, hinit⟩ := h.window
  obtain ⟨htransfer, -⟩ := h.inited
  have hbusy : initState s.st = true ∨ transferState s.st = true := by
    cases hs : s.st <;> first | exact absurd hs hst | simp [initState, transferState]
  exact hbusy.elim hinit fun e => hcreated (htransfer e)

/-- A step of the polling unit is nearer the end: it gives up, hits, or has one poll fewer left (R120 to R123). -/
theorem pollStep_progress {mask : Byte} {hitSt pollSt : SeqState} {f : Failure} (hv : windowValid s)
    (hc : s.cnt ≤ s.params.budget) (hhit : ∀ u : State, u.st = hitSt → stepsLeft u = 1)
    (hmiss : ∀ u : State, u.st = pollSt → stepsLeft u = u.params.budget - u.cnt + 1) (hst : s.st = pollSt) :
    ∃ t, pollStep mask hitSt pollSt f s = .next t ∧ stepsLeft t < stepsLeft s := by
  rw [hmiss s hst]
  by_cases hfull : s.cnt = s.params.budget
  · refine ⟨_, pollStep_next.mpr (.inl ⟨hfull, rfl⟩), ?_⟩
    rw [stepsLeft_of_idle rfl]
    omega
  · have hlt := Nat.lt_of_le_of_ne hc hfull
    have hone := Polled.one pollSt hlt
    refine ⟨_, pollStep_of_lt hlt hv, ?_⟩
    split
    · rw [hhit _ rfl]
      omega
    · rw [hmiss _ rfl, hone.cnt, hone.params, List.length_singleton]
      omega

/-- Under the run's invariant a command in progress has a step, and is nearer its end after it (R246). -/
theorem RunInv.controllerStep_progress (h : RunInv s) (hst : s.st ≠ .idle) :
    ∃ t, controllerStep s = .next t ∧ stepsLeft t < stepsLeft s := by
  have hv := h.windowValid_of_busy hst
  have hc := h.counter.2
  cases hs : s.st
  case idle => exact absurd hs hst
  case txpoll =>
    rw [controllerStep_txpoll s hs]
    exact pollStep_progress hv (hc (by rw [hs]; rfl)) (fun u e => by rw [stepsLeft, e])
      (fun u e => by rw [stepsLeft, e]) hs
  case rxpoll =>
    rw [controllerStep_rxpoll s hs]
    exact pollStep_progress hv (hc (by rw [hs]; rfl)) (fun u e => by rw [stepsLeft, e])
      (fun u e => by rw [stepsLeft, e]) hs
  all_goals exact ⟨_, controllerStep_of_row hs ⟨hv, rfl⟩, by simp [stepsLeft, hs]⟩

/-- An accepted command has at most 8 steps left for CREATE and `BUDGET + 1` for SEND and RECV (R91, R93, R94). -/
theorem controllerStep_idle_stepsLeft (hst : s.st = .idle) (h : controllerStep s = .next t) :
    stepsLeft t ≤ if t.st = .init1 then 8 else s.params.budget + 1 := by
  rw [controllerStep_idle hst] at h
  rcases execIdle_next.mp h with ⟨-, rfl⟩ | ⟨w, ws, -, hc⟩
  · simp [stepsLeft_of_idle hst]
  · rcases (execCommand_idle (s := { s with port := ws }) hst w).mp hc with
      ⟨-, -, rfl⟩ | ⟨-, rfl⟩ | ⟨-, -, rfl⟩ | ⟨-, -, rfl⟩ | ⟨-, -, rfl⟩ <;> simp [stepsLeft]

/-- A move of the host or the device answers a next state and leaves a command in progress as far as it was. -/
theorem step_other_stepsLeft {m : Move} {rest : List Move} (hf : noOtherMaster s) (hm : s.moves = m :: rest)
    (hc : m ≠ .controller) (hr : m ≠ .reset) :
    ∃ t, step s = .next t ∧ t.moves = rest ∧ stepsLeft t = stepsLeft s := by
  rw [step_own hf, moveStep, hm]
  cases m with
  | controller => exact absurd rfl hc
  | reset => exact absurd rfl hr
  | offer w => exact ⟨_, rfl, rfl, stepsLeft_congr rfl rfl rfl⟩
  | take => exact ⟨_, rfl, rfl, stepsLeft_congr rfl rfl rfl⟩
  | env e => exact ⟨_, rfl, rfl, stepsLeft_congr rfl rfl rfl⟩

/-- A step of a run without a reset keeps the controller's moves enough for the steps left. -/
theorem RunInv.step_stepsLeft_le {m : Move} {rest : List Move} (h : RunInv s) (hst : s.st ≠ .idle)
    (hm : s.moves = m :: rest) (hr : m ≠ .reset) (hc : stepsLeft s ≤ (m :: rest).count .controller) :
    ∃ t, Machine.step s = .next t ∧ t.moves = rest ∧ stepsLeft t ≤ rest.count .controller := by
  by_cases hctl : m = .controller
  · subst hctl
    obtain ⟨t, ht, hlt⟩ := h.popMove.controllerStep_progress hst
    obtain ⟨-, hmoves, -⟩ := controllerStep_frame ht
    refine ⟨t, (step_controllerTurn h.exclusive (.inr ⟨rest, hm⟩)).trans ht, ?_, ?_⟩
    · rw [hmoves, popMove_moves, hm, List.tail_cons]
    · rw [List.count_cons_self] at hc
      rw [stepsLeft_popMove] at hlt
      omega
  · obtain ⟨t, ht, hmoves, heq⟩ := step_other_stepsLeft h.exclusive hm hctl hr
    exact ⟨t, ht, hmoves, by rwa [heq, ← List.count_cons_of_ne hctl]⟩

/-- In a run without a reset the command in progress ends, if the controller has as many moves as it has steps left: by
induction on the moves. -/
theorem RunInv.command_ends (h : RunInv s) (hr : .reset ∉ s.moves) (hc : stepsLeft s ≤ s.moves.count .controller) :
    ∃ k t, k ≤ s.moves.length ∧ runFor k s = .next t ∧ t.st = .idle := by
  induction hm : s.moves generalizing s with
  | nil =>
    rw [hm, List.count_nil, Nat.le_zero] at hc
    exact ⟨0, s, Nat.le_refl 0, rfl, stepsLeft_eq_zero_iff.mp hc⟩
  | cons m rest ih =>
    by_cases hst : s.st = .idle
    · exact ⟨0, s, Nat.zero_le _, rfl, hst⟩
    · rw [hm] at hr hc
      obtain ⟨hne, hrest⟩ := not_or.mp (mt List.mem_cons.mpr hr)
      obtain ⟨t, ht, hmoves, hleft⟩ := h.step_stepsLeft_le hst hm (Ne.symm hne) hc
      obtain ⟨k, u, hk, hrun, hu⟩ := ih (h.step ht) (hmoves ▸ hrest) (hmoves ▸ hleft) hmoves
      exact ⟨k + 1, u, Nat.succ_le_succ hk, (runFor_step ht).trans hrun, hu⟩

/-- Settles O55: each controller step of a command in progress lessens `stepsLeft`, which no other move but a reset
changes. -/
theorem everyCommandEnds : Obligations.EveryCommandEnds := by
  refine ⟨fun s => RunInv.controllerStep_progress, fun s t => controllerStep_idle_stepsLeft,
    fun s m rest h hm hc hr => ?_, fun s => stepsLeft_eq_zero_iff, fun s => RunInv.command_ends⟩
  obtain ⟨t, ht, -, heq⟩ := step_other_stepsLeft h.exclusive hm hc hr
  exact ⟨t, ht, heq⟩

end Sys2Proof.Machine
end

section
/-! What a row of CREATE leaves in the machine: the state with one register of the device set (R101 to R108, R111). -/

namespace Sys2Proof.Machine

variable {s : State} {d : Device} {r : WriteReg} {off : Offset} {v : Byte} {n : SeqState}

/-- A register write and a jump change the device, the draw, the trace and `st`, and nothing else (R66, R20). -/
theorem goto_deviceWrite (hd : s.dev.write s.params.fifoDepth r v s.draws = d) :
    goto n (deviceWrite r off v s) =
      { s with st := n, trace := s.trace ++ [.wr off v], draws := s.draws + 1, dev := d } := by
  subst hd
  rfl

/-- A row whose write reaches register `r` leaves the device as that register's write does (R100). -/
theorem initWrite_eq (hv : windowValid s) (hw : windowWrite off v s = .next (deviceWrite r off v s))
    (hd : s.dev.write s.params.fifoDepth r v s.draws = d) :
    initWrite off v n s =
      .next { s with st := n, trace := s.trace ++ [.wr off v], draws := s.draws + 1, dev := d } :=
  initWrite_next.mpr ⟨hv, _, hw, (goto_deviceWrite hd).symm⟩

/-! ### The register behind offsets 0 and 1 (R77, R111) -/

theorem windowWrite_data_of_dlab (h : s.dlab = true) :
    windowWrite offData v s = .next (deviceWrite .divisorLsb offData v s) := by
  simp [windowWrite_data, h]

theorem windowWrite_ier_of_dlab (h : s.dlab = true) :
    windowWrite offIer v s = .next (deviceWrite .divisorMsb offIer v s) := by
  simp [windowWrite_ier, h]

theorem windowWrite_ier_of_not_dlab (h : s.dlab = false) :
    windowWrite offIer v s = .next (deviceWrite .irqEnable offIer v s) := by
  simp [windowWrite_ier, h]

/-- The last row, with DLAB 0, sets IRQ_ENABLE and `inited` and answers Ok (R108). -/
theorem execInit7_of_not_dlab (hv : windowValid s) (h : s.dlab = false) :
    execInit7 s = .next { s with
      st := .idle, inited := true, rsp := s.rsp ++ [rspWord .ok 0x00#8],
      trace := s.trace ++ [.wr offIer ierRx], draws := s.draws + 1, dev := s.dev.setIer ierRx } := by
  have hd := write_irqEnable s.params.fifoDepth s.draws ierRx s.dev rfl
  rw [execInit7_next, h, ← hd]
  exact ⟨hv, rfl⟩

theorem dlab_setLcr (v : Byte) (d : Device) : (d.setLcr v).dlab = dlabOf v := by cases d <;> rfl

/-- Settles O18: each row's write reaches one register, by its offset and DLAB, and on every device that write sets the
register to the byte, or starts the FIFOs. -/
theorem initRowsProgramTheDevice : Obligations.InitRowsProgramTheDevice := by
  intro s hv
  refine ⟨fun h => ?init1, fun h => ?init1_dlab, ?init2, fun h => ?init3a, fun h => ?init3b, ?init4, ?init5, ?init6,
    fun h => ?init7, dlab_setLcr lcrDlab s.dev, dlab_setLcr lcr8n1 s.dev⟩
  case init1 => exact initWrite_eq hv (windowWrite_ier_of_not_dlab h) (write_irqEnable _ _ ierOff _ rfl)
  case init1_dlab => exact initWrite_eq hv (windowWrite_ier_of_dlab h) (write_divisorMsb _ _ ierOff _)
  case init2 => exact initWrite_eq hv (windowWrite_lcr lcrDlab) (write_lineControl _ _ lcrDlab _)
  case init3a => exact initWrite_eq hv (windowWrite_data_of_dlab h) (write_divisorLsb _ _ dllInit _)
  case init3b => exact initWrite_eq hv (windowWrite_ier_of_dlab h) (write_divisorMsb _ _ dlmInit _)
  case init4 => exact initWrite_eq hv (windowWrite_lcr lcr8n1) (write_lineControl _ _ lcr8n1 _)
  case init5 => exact initWrite_eq hv (windowWrite_fcr fcrInit) (write_fcrInit _ _ _)
  case init6 => exact initWrite_eq hv (windowWrite_mcr mcrInit) (write_modemControl _ _ mcrInit _ rfl)
  case init7 => exact execInit7_of_not_dlab hv h

end Sys2Proof.Machine
end

section
/-! The polling unit and the data paths (42_polling_unit.md), state by state: how each is entered, the one access it
makes, and how it ends. -/

namespace Sys2Proof.Machine

variable {s t : State}

/-! ### The poll test (R122) -/

/-- Settles O24: each mask has one bit, so equal bits there give equal tests. -/
theorem pollTestsOneBit : Obligations.PollTestsOneBit := by
  intro a b
  have hthre (x : Byte) : hit 0x20#8 x = x.getLsbD 5 := hit_lsrThre x
  have hdr (x : Byte) : hit 0x01#8 x = x.getLsbD 0 := hit_lsrDr x
  exact ⟨hthre a, hdr a, fun h => by rw [hthre, hthre, h], fun h => by rw [hdr, hdr, h]⟩

/-! ### How each state is entered (R93, R94, R121) -/

/-- How a controller step from `s` to `t` enters the state `n` of the polling unit or the data paths: a poll state from
IDLE by its command or from itself after a miss, a data state from its poll state after a hit. -/
def enters (n : SeqState) (s t : State) : Prop :=
  match n with
  | .txpoll =>
      (s.st = .idle ∧ t.cnt = 0 ∧ ∃ w ws, s.port = w :: ws ∧ w % 4 = 2 ∧
        t.val = sendOperand (cmdArg s.params.addrWidth w)) ∨
      (s.st = .txpoll ∧ t.rdata &&& lsrThre = 0#8)
  | .txwrite => s.st = .txpoll ∧ t.rdata &&& lsrThre ≠ 0#8 ∧ t.trace = s.trace ++ [.rd offLsr t.rdata]
  | .rxpoll =>
      (s.st = .idle ∧ t.cnt = 0 ∧ ∃ w ws, s.port = w :: ws ∧ w % 4 = 3) ∨
      (s.st = .rxpoll ∧ t.rdata &&& lsrDr = 0#8)
  | .rxread => s.st = .rxpoll ∧ t.rdata &&& lsrDr ≠ 0#8
  | .idle | .init1 | .init2 | .init3a | .init3b | .init4 | .init5 | .init6 | .init7 => True

/-- Of the commands IDLE accepts, only SEND and RECV lead into the unit (R93, R94). -/
theorem execIdle_enters (hst : s.st = .idle) (h : execIdle s = .next t) : enters t.st s t := by
  rcases execIdle_next.mp h with ⟨-, rfl⟩ | ⟨w, ws, hp, hc⟩
  · rw [hst]
    trivial
  · rcases (execCommand_idle (s := { s with port := ws }) hst w).mp hc with
      ⟨-, -, rfl⟩ | ⟨-, rfl⟩ | ⟨hop, -, rfl⟩ | ⟨hop, -, rfl⟩ | ⟨-, -, rfl⟩
    · trivial
    · trivial
    · exact .inl ⟨hst, rfl, w, ws, hp, by rw [mod_four_eq_bits, hop]; rfl, rfl⟩
    · exact .inl ⟨hst, rfl, w, ws, hp, by rw [mod_four_eq_bits, hop]; rfl⟩
    · trivial

/-- The byte of a poll that does not hit has the masked bit clear (R122). -/
theorem and_eq_zero_of_not_hit {mask b : Byte} (h : ¬ hit mask b = true) : b &&& mask = 0#8 := by
  simpa [hit_iff] using h

/-- Every controller step enters the state it leads to by its rule: of the rows outside the unit only IDLE leads into
it, and a poll goes on by the byte it has read. -/
theorem controllerStep_enters {n : SeqState} (h : controllerStep s = .next t) (hn : t.st = n) : enters n s t := by
  subst hn
  have hr := controllerStep_next.mp h
  cases hst : s.st <;> rw [hst] at hr
  case idle => exact execIdle_enters hst (execIdle_next.mpr hr)
  case txpoll =>
    rcases hr with ⟨-, rfl⟩ | ⟨-, -, rfl⟩
    · trivial
    · split
      · next hh => exact ⟨hst, (hit_iff _ _).mp hh, rfl⟩
      · next hh => exact .inr ⟨hst, and_eq_zero_of_not_hit hh⟩
  case rxpoll =>
    rcases hr with ⟨-, rfl⟩ | ⟨-, -, rfl⟩
    · trivial
    · split
      · next hh => exact ⟨hst, (hit_iff _ _).mp hh⟩
      · next hh => exact .inr ⟨hst, and_eq_zero_of_not_hit hh⟩
  all_goals
    obtain ⟨-, rfl⟩ := hr
    trivial

/-! ### The steps of the polling unit (R120 to R124, R126) -/

/-- With the budget used up a step of the unit only answers its path's failure (R123). -/
theorem pollStep_of_exhausted {mask : Byte} {hitSt missSt : SeqState} {f : Failure} (h : s.cnt = s.params.budget) :
    pollStep mask hitSt missSt f s = .next (raise f s) :=
  pollStep_next.mpr (.inl ⟨h, rfl⟩)

/-- Before that it is one RD_LINE_STATUS, counted, and the masked bit of the byte read decides where it leads (R121). -/
theorem pollStep_performs {mask : Byte} {hitSt missSt : SeqState} {f : Failure} (h : s.cnt < s.params.budget)
    (hv : windowValid s) : ∃ t,
      exec (.rdLineStatus 0x00#8) s = .next t ∧ t.trace = s.trace ++ [.rd offLsr t.rdata] ∧
      pollStep mask hitSt missSt f s = .next { t with
        cnt := s.cnt + 1, st := if t.rdata &&& mask ≠ 0#8 then hitSt else missSt } := by
  refine ⟨deviceRead .lineStatus offLsr s, rfl, rfl, ?_⟩
  rw [pollStep_of_lt h hv, afterPoll, cntNext_of_lt h]
  simp only [hit_iff]
  rfl

/-- Settles O20: TXPOLL is a step of the unit with the mask of THRE. -/
theorem txpollPollsOrGivesUp : Obligations.TxpollPollsOrGivesUp :=
  ⟨fun _ _ => controllerStep_enters, fun _ => pollStep_of_exhausted, fun _ => pollStep_performs⟩

/-- Settles O22: RXPOLL is a step of the unit with the mask of DR. -/
theorem rxpollPollsOrGivesUp : Obligations.RxpollPollsOrGivesUp :=
  ⟨fun _ _ => controllerStep_enters, fun _ => pollStep_of_exhausted, fun _ => pollStep_performs⟩

/-! ### The data paths (R125, R127) -/

/-- A read of the controller in a valid window is the row of its transaction word (R66, R76). -/
theorem regRead_eq_exec (hv : windowValid s) (off : Offset) :
    regRead off s = exec (decodeXact s.dlab (xactWord false off 0x00#8)) s := by
  rw [regRead, issue, underWindow_of hv, reqXact_readReq (offset_lt_of_fits hv.2 off), windowAccess_eq_exec]

/-- With DLAB 0 a write of offset 0 reaches DATA (R77). -/
theorem decodeXact_write_data (v : Byte) : decodeXact false (xactWord true 0#3 v) = .wrData v := by
  simp [decodeXact]

/-- With DLAB 0 a read of offset 0 reaches DATA (R77). -/
theorem decodeXact_read_data (lane : Byte) : decodeXact false (xactWord false 0#3 lane) = .rdData lane := by
  simp [decodeXact]

/-- Settles O21: a hit of TXPOLL is the one entry, and the row is the write of `val`, then Ok. -/
theorem txwriteWritesValOnce : Obligations.TxwriteWritesValOnce := by
  refine ⟨fun _ _ => controllerStep_enters, fun s hv => ?_⟩
  have hwrite := regWrite_next.mpr ⟨hv, windowWrite_data s.val⟩
  rw [regWrite_eq_exec hv] at hwrite
  exact ⟨_, hwrite, rfl, execTxwrite_next.mpr ⟨hv, rfl⟩, fun hd => by rw [hd, decodeXact_write_data]⟩

/-- A DATA read of `DEV_FIFO` takes the oldest byte and answers it (R185, D19). -/
theorem read_data_fifo {d : FifoDev} {x : Byte} {xs : List Byte} (n : Nat) (hrx : d.rx = x :: xs) :
    (Device.fifo d).read .data n = (x, .fifo { d with rx := xs, last := x }) := by
  simp [Device.read, FifoDev.read, FifoDev.readData, hrx]

/-- Settles O23: a hit of RXPOLL is the one entry, and the row is the read of offset 0, then Ok with the byte read. -/
theorem rxreadAnswersTheByteRead : Obligations.RxreadAnswersTheByteRead := by
  refine ⟨fun _ _ => controllerStep_enters, fun s hv => ?_⟩
  have hread := regRead_next.mpr ⟨hv, windowRead_data 0x00#8⟩
  rw [regRead_eq_exec hv] at hread
  refine ⟨_, hread, rfl, execRxread_next.mpr ⟨hv, rfl⟩, fun hd => ⟨by rw [hd, decodeXact_read_data], ?_⟩⟩
  intro d x xs hdev hrx
  simp [hd, hdev, read_data_fifo s.draws hrx]

end Sys2Proof.Machine
end

section
/-! The window accesses one by one (43_register_access.md, 44_reference_devices.md): what each does to each of the three
devices, and that it does nothing else; and the abstract device's own step. -/

namespace Sys2Proof.Machine

variable {s : State} {e : EnvStep} {rest : List Move}

/-! ### The control writes (R143, R145, R147, R151, R153) -/

/-- A register write changes the device, the trace and the draw, and nothing else (R66). -/
theorem next_deviceWrite {r : WriteReg} {off : Offset} {v : Byte} {d : Device}
    (hd : s.dev.write s.params.fifoDepth r v s.draws = d) :
    (.next (deviceWrite r off v s) : Result) =
      .next { s with trace := s.trace ++ [.wr off v], draws := s.draws + 1, dev := d } := by
  subst hd
  rfl

/-- Settles O26: each row is one register write, and on every device that write sets the register; where `DEV_FIFO`
masks the byte the three devices are read one by one. -/
theorem controlWritesStoreTheByte : Obligations.ControlWritesStoreTheByte := by
  intro s v
  refine ⟨next_deviceWrite ?lsb, next_deviceWrite ?msb, next_deviceWrite ?ier, next_deviceWrite ?lcr,
    next_deviceWrite ?mcr⟩
  case lsb => exact write_divisorLsb _ _ v s.dev
  case msb => exact write_divisorMsb _ _ v s.dev
  case ier => cases s.dev <;> rfl
  case lcr => exact write_lineControl _ _ v s.dev
  case mcr => cases s.dev <;> rfl

/-! ### DATA (R141, R142) -/

/-- Settles O28: the one device write; the abstract device takes the byte or is in any state, the others as they choose. -/
theorem wrDataHandsTheByteOver : Obligations.WrDataHandsTheByteOver := by
  intro s v
  refine ⟨s.dev.write s.params.fifoDepth .data v s.draws, rfl, fun d hd => ?abs, fun d hd => ?regfile, fun d hd => ?fifo⟩
  case abs =>
    rw [hd]
    exact ⟨fun h => congrArg Device.abs (d.writeData_ready _ v h), fun _ =>
      (d.writeData_cases _ v).imp (congrArg Device.abs) fun ⟨_, h⟩ => congrArg Device.abs h⟩
  case regfile => rw [hd]; rfl
  case fifo => rw [hd]; rfl

/-- A DATA read of an empty `DEV_FIFO` answers the last byte again and changes nothing (R185, D19). -/
theorem read_data_fifo_of_nil {d : FifoDev} (n : Nat) (hrx : d.rx = []) :
    (Device.fifo d).read .data n = (d.last, .fifo d) := by
  simp [Device.read, FifoDev.read, FifoDev.readData, hrx]

/-- Settles O32: the one device read; the abstract device gives a byte or is in any state, `DEV_FIFO` by its queue. -/
theorem rdDataAnswersAByte : Obligations.RdDataAnswersAByte := by
  intro s lane
  refine ⟨(s.dev.read .data s.draws).1, (s.dev.read .data s.draws).2, rfl, fun d hd => ?abs, fun d hd => ?regfile,
    fun d hd => ?fifo⟩
  case abs =>
    rw [hd]
    exact ⟨fun h => congrArg Device.abs (d.readData_ready _ _ h), fun _ =>
      (d.readData_cases _ _).imp (congrArg Device.abs) fun ⟨_, h⟩ => congrArg Device.abs h⟩
  case regfile => rw [hd]; exact ⟨rfl, rfl⟩
  case fifo =>
    rw [hd]
    exact ⟨fun h => by simp [read_data_fifo_of_nil _ h], fun x xs h => by simp [read_data_fifo _ h]⟩

/-! ### FIFO_CONTROL (R149, R183) -/

/-- Bit 1 of the byte says whether the receive side is emptied (R35). -/
theorem AbsDev.writeFcr_eq (v : Byte) (d : AbsDev) : d.writeFcr v =
    if v.getLsbD 1 = true then { d with fcr := v, dr := false, rxEmpty := true } else { d with fcr := v } := by
  unfold AbsDev.writeFcr fcrClearRx
  cases v.getLsbD 1 <;> simp

/-- The trigger code is bits 7:6 of the byte (R35). -/
theorem fcrTrigger_eq : ∀ v : Byte, fcrTrigger v =
    if v.toNat / 64 = 0 then .one else if v.toNat / 64 = 1 then .four
    else if v.toNat / 64 = 2 then .eight else .fourteen := by decide

/-- The receive queue is emptied by a change of the enable or by bit 1 (R183). -/
theorem FifoDev.writeFcr_rx_eq (v : Byte) (d : FifoDev) : (d.writeFcr v).rx =
    if v.getLsbD 0 ≠ d.fifoEn ∨ v.getLsbD 1 = true then [] else d.rx := by
  simp [FifoDev.writeFcr, fcrEnable, fcrClearRx]

/-- The transmit queue is emptied by a change of the enable or by bit 2 (R183). -/
theorem FifoDev.writeFcr_tx_eq (v : Byte) (d : FifoDev) : (d.writeFcr v).tx =
    if v.getLsbD 0 ≠ d.fifoEn ∨ v.getLsbD 2 = true then [] else d.tx := by
  simp [FifoDev.writeFcr, fcrEnable, fcrClearTx]

/-- The trigger is kept at one byte with the FIFOs disabled (R183). -/
theorem FifoDev.writeFcr_trig (v : Byte) (d : FifoDev) : (d.writeFcr v).trig =
    if v.getLsbD 0 then
      (if v.toNat / 64 = 0 then .one else if v.toNat / 64 = 1 then .four
       else if v.toNat / 64 = 2 then .eight else .fourteen) else .one := by
  rw [← fcrTrigger_eq]
  rfl

/-- With FIFO_CONTROL at 0xC7 nothing is received, so nothing signals (R149, R191; the abstract device: assumption 15). -/
theorem irq_fifosStarted (choice : Bool) (d : Device) : d.fifosStarted.irq choice = false := by
  cases d with
  | abs d => simp [Device.fifosStarted, Device.irq, AbsDev.irq]
  | regfile d => rfl
  | fifo d => simp [Device.fifosStarted, Device.irq, FifoDev.irq, FifoDev.pending, triggerBytes]

/-- Settles O29: the one device write, field by field; the byte 0xC7 starts the FIFOs. -/
theorem wrFifoControlSetsUpTheQueues : Obligations.WrFifoControlSetsUpTheQueues := by
  intro s v
  refine ⟨s.dev.write s.params.fifoDepth .fifoControl v s.draws, rfl, ?quiet, fun d hd => ?abs, fun d hd => ?regfile,
    fun d hd => ?fifo⟩
  case quiet =>
    rintro rfl choice
    exact (congrArg _ (write_fcrInit _ _ s.dev)).trans (irq_fifosStarted choice s.dev)
  case abs =>
    rw [hd, ← AbsDev.writeFcr_eq]
    rfl
  case regfile => rw [hd]; rfl
  case fifo =>
    rw [hd]
    refine ⟨d.writeFcr v, rfl, rfl, d.writeFcr_rx_eq v, d.writeFcr_tx_eq v, rfl, d.writeFcr_trig v, ?_⟩
    rintro rfl
    have hstarted : d.writeFcr 0xC7#8 = { d with rx := [], tx := [], fifoEn := true, trig := .fourteen } :=
      Device.fifo.inj (write_fcrInit s.params.fifoDepth s.draws (.fifo d))
    simp [hstarted, triggerBytes]

/-! ### The control reads (R144, R146, R148, R150, R152, R154, R157, R159) -/

/-- Only a DATA read and a status read change the device (R144 to R159, R173, R182, R185). -/
theorem read_keeps {r : ReadReg} (hdata : r ≠ .data) (hstatus : r ≠ .lineStatus) (n : Nat) (d : Device) :
    (d.read r n).2 = d := by
  cases r
  case data => exact absurd rfl hdata
  case lineStatus => exact absurd rfl hstatus
  all_goals cases d <;> rfl

/-- A read of any other register leaves the answer on `rdata` and in the trace, and the device as it is; a reference
device answers what its own read says. -/
theorem next_controlRead {r : ReadReg} {off : Offset} (hdata : r ≠ .data) (hstatus : r ≠ .lineStatus) :
    ∃ b, (.next (deviceRead r off s) : Result) =
        .next { s with rdata := b, trace := s.trace ++ [.rd off b], draws := s.draws + 1 } ∧
      (∀ d, s.dev = .regfile d → b = (d.read r).1) ∧ (∀ d, s.dev = .fifo d → b = (d.read r).1) := by
  refine ⟨(s.dev.read r s.draws).1, ?_, fun d hd => by rw [hd]; rfl, fun d hd => by rw [hd]; rfl⟩
  simp [deviceRead, record, read_keeps hdata hstatus]

/-- The interrupt identification of `DEV_FIFO` (R190, D19). -/
theorem FifoDev.read_irqId (d : FifoDev) : (d.read .irqId).1 = (if d.fifoEn then 0xC0#8 else 0x00#8) |||
    (if d.ier.getLsbD 0 = true ∧ triggerBytes d.trig ≤ d.rx.length then 0x04#8 else 0x01#8) := by
  have hbyte : ∀ en p, irqIdByte en p = (if en then 0xC0#8 else 0x00#8) ||| (if p then 0x04#8 else 0x01#8) := by decide
  rw [FifoDev.read, hbyte]
  simp [FifoDev.pending, rxIrqEnabled]

/-- Settles O30: none of the eight registers is DATA or LINE_STATUS. -/
theorem controlReadsKeepTheDevice : Obligations.ControlReadsKeepTheDevice := by
  intro s lane
  refine ⟨next_controlRead (r := .divisorLsb) (by decide) (by decide),
    next_controlRead (r := .divisorMsb) (by decide) (by decide),
    next_controlRead (r := .irqEnable) (by decide) (by decide), ?irqId,
    next_controlRead (r := .lineControl) (by decide) (by decide),
    next_controlRead (r := .modemControl) (by decide) (by decide),
    next_controlRead (r := .offset6) (by decide) (by decide),
    next_controlRead (r := .offset7) (by decide) (by decide)⟩
  case irqId =>
    obtain ⟨b, hnext, hregfile, hfifo⟩ := next_controlRead (s := s) (r := .irqId) (off := offFcr) (by decide) (by decide)
    exact ⟨b, hnext, hregfile, fun d hd => (hfifo d hd).trans d.read_irqId⟩

/-! ### LINE_STATUS (R155, R173, R174, R181, R182) -/

theorem RegFile.advance_of_nil {d : RegFile} (h : d.later = []) : d.advance = d := by
  simp [RegFile.advance, h]

theorem RegFile.advance_of_cons {d : RegFile} {x : Byte} {xs : List Byte} (h : d.later = x :: xs) :
    d.advance = { d with lsr := x, later := xs } := by
  simp [RegFile.advance, h]

/-- Settles O31: the one device read; `DEV_REGFILE` moves its schedule on if it has one. -/
theorem rdLineStatusAnswersTheStatus : Obligations.RdLineStatusAnswersTheStatus := by
  intro s lane
  refine ⟨(s.dev.read .lineStatus s.draws).1, (s.dev.read .lineStatus s.draws).2, rfl, fun d hd => ?abs,
    fun d hd => ?regfile, fun d hd => ?fifo⟩
  case abs => rw [hd]; rfl
  case regfile =>
    rw [hd]
    exact ⟨rfl, fun h => congrArg Device.regfile (RegFile.advance_of_nil h),
      fun x xs h => congrArg Device.regfile (RegFile.advance_of_cons h)⟩
  case fifo => rw [hd]; exact ⟨rfl, rfl⟩

/-! ### The writes without a meaning (R156, R158, R160) -/

/-- Settles O33: each of the three rows is its refusal. -/
theorem writesWithoutMeaningStop : Obligations.WritesWithoutMeaningStop := fun _ _ => ⟨rfl, rfl, rfl⟩

/-! ### The device's own steps (R140) -/

/-- A device's own step changes the device and the draw, and nothing else (R140). -/
theorem step_env (hf : noOtherMaster s) (hm : s.moves = .env e :: rest) :
    step s = .next { s with
      moves := rest
      draws := s.draws + 1
      dev := s.dev.env s.params.fifoDepth (decide (s.st = .idle)) e } := by
  rw [step_own hf, moveStep, hm]
  rfl

/-- Settles O38: the step is the device's own, which may only bring a byte. -/
theorem abstractDeviceMovesUnseen : Obligations.AbstractDeviceMovesUnseen := by
  intro s d rest e hf hdev hm
  rw [step_env hf hm, hdev]
  rfl

end Sys2Proof.Machine
end

section
/-! `DEV_FIFO` (R180 to R195, the spec's own choice, D19): its status byte, its own steps, the order of transmission, and
the handshake with the polling unit. -/

namespace Sys2Proof.Machine

variable {s : State} {d : FifoDev}

/-! ### The status byte (R181) -/

/-- Where the four flags stand in the status byte; the other bits are 0. -/
theorem lineStatusByte_bits : ∀ temt thre oe dr : Bool,
    (lineStatusByte temt thre oe dr).getLsbD 0 = dr ∧ (lineStatusByte temt thre oe dr).getLsbD 1 = oe ∧
    (lineStatusByte temt thre oe dr).getLsbD 5 = thre ∧ (lineStatusByte temt thre oe dr).getLsbD 6 = temt ∧
    lineStatusByte temt thre oe dr &&& 0x9C#8 = 0x00#8 := by decide

/-- Bit 6 comes only with THRE, so the transmit side shows 0x00, 0x20 or 0x60. -/
theorem lineStatusByte_values : ∀ shifterFree thre oe dr : Bool,
    (lineStatusByte (thre && shifterFree) thre oe dr).toNat ∈
      [0x00, 0x01, 0x02, 0x03, 0x20, 0x21, 0x22, 0x23, 0x60, 0x61, 0x62, 0x63] := by decide

/-- Settles O35: the four bits of the byte are the four flags, and bit 6 is THRE and the free shifter. -/
theorem fifoStatusByte : Obligations.FifoStatusByte := by
  intro d
  obtain ⟨hdr, hoe, hthre, htemt, hother⟩ :=
    lineStatusByte_bits (d.tx.isEmpty && d.tsr.isNone) d.tx.isEmpty d.oe (!d.rx.isEmpty)
  refine ⟨?dr, hoe, ?thre, ?temt, hother, lineStatusByte_values d.tsr.isNone d.tx.isEmpty d.oe (!d.rx.isEmpty)⟩
  case dr => rw [FifoDev.lsr, hdr]; simp
  case thre => rw [FifoDev.lsr, hthre]; simp
  case temt => rw [FifoDev.lsr, htemt]; simp

/-! ### The device's own steps, enabled or not (R192) -/

theorem FifoDev.txLoad_of_free {v : Byte} {tx : List Byte} (htsr : d.tsr = none) (htx : d.tx = v :: tx) :
    d.txLoad = { d with tsr := some v, tx := tx } := by
  simp [FifoDev.txLoad, htsr, htx]

theorem FifoDev.txLoad_of_not_enabled (h : d.tsr ≠ none ∨ d.tx = []) : d.txLoad = d := by
  unfold FifoDev.txLoad
  split
  · next htsr htx => simp [htsr, htx] at h
  · rfl
  · rfl

theorem FifoDev.txDone_of_some {v : Byte} (h : d.tsr = some v) :
    d.txDone = { d with lineOut := d.lineOut ++ [v], tsr := none } := by
  simp [FifoDev.txDone, h]

theorem FifoDev.txDone_of_none (h : d.tsr = none) : d.txDone = d := by
  simp [FifoDev.txDone, h]

/-- What is none of the three steps of R192 changes nothing. -/
theorem FifoDev.env_of_not_own {e : EnvStep} (depth : Nat) (d : FifoDev) (hload : e ≠ .txLoad) (hdone : e ≠ .txDone)
    (harrive : ∀ b, e ≠ .rxArrive b) : d.env depth e = d := by
  cases e
  case txLoad => exact absurd rfl hload
  case txDone => exact absurd rfl hdone
  case rxArrive b => exact absurd rfl (harrive b)
  all_goals rfl

/-- Settles O36: the step is the device's own, and each of its three steps is enabled by the queue or the shifter. -/
theorem fifoMovesByItself : Obligations.FifoMovesByItself := by
  intro s d rest e hf hdev hm
  refine ⟨d.env s.params.fifoDepth e, ?step, ?arrive, ?load, ?done, FifoDev.env_of_not_own _ d⟩
  case step => rw [step_env hf hm, hdev]; rfl
  case arrive =>
    rintro b rfl
    rfl
  case load =>
    rintro rfl
    exact ⟨fun _ _ => FifoDev.txLoad_of_free, FifoDev.txLoad_of_not_enabled⟩
  case done =>
    rintro rfl
    exact ⟨fun _ => FifoDev.txDone_of_some, FifoDev.txDone_of_none⟩

/-! ### The order of transmission (R195 d) -/

/-- The bytes handed to the transmit side and kept, oldest first: out on the line, in the shifter, queued. -/
def FifoDev.transmitted (d : FifoDev) : List Byte := d.lineOut ++ d.tsr.toList ++ d.tx

theorem FifoDev.txLoad_transmitted (d : FifoDev) : d.txLoad.transmitted = d.transmitted := by
  by_cases h : d.tsr ≠ none ∨ d.tx = []
  · rw [FifoDev.txLoad_of_not_enabled h]
  · obtain ⟨htsr, htx⟩ : d.tsr = none ∧ d.tx ≠ [] := by simpa using h
    obtain ⟨v, tx, htx⟩ := List.exists_cons_of_ne_nil htx
    simp [FifoDev.txLoad_of_free htsr htx, FifoDev.transmitted, htsr, htx]

theorem FifoDev.txDone_transmitted (d : FifoDev) : d.txDone.transmitted = d.transmitted := by
  cases h : d.tsr with
  | none => rw [FifoDev.txDone_of_none h]
  | some v => simp [FifoDev.txDone_of_some h, FifoDev.transmitted, h]

theorem FifoDev.rxArrive_transmitted (depth : Nat) (b : Byte) (d : FifoDev) :
    (d.rxArrive depth b).transmitted = d.transmitted := by
  unfold FifoDev.rxArrive
  split <;> rfl

/-- A byte moves towards the line and is never lost, doubled or overtaken. -/
theorem FifoDev.env_transmitted (depth : Nat) (e : EnvStep) (d : FifoDev) :
    (d.env depth e).transmitted = d.transmitted := by
  cases e
  case rxArrive b => exact d.rxArrive_transmitted depth b
  case txLoad => exact d.txLoad_transmitted
  case txDone => exact d.txDone_transmitted
  all_goals rfl

theorem FifoDev.writeData_of_room {depth : Nat} (v : Byte) (h : d.tx.length < d.cap depth) :
    d.writeData depth v = { d with tx := d.tx ++ [v] } := if_pos h

theorem FifoDev.rxArrive_of_room {depth : Nat} (b : Byte) (h : d.rx.length < d.cap depth) :
    d.rxArrive depth b = { d with rx := d.rx ++ [b] } := if_pos h

/-- The device's own steps take no byte off the receive queue. -/
theorem FifoDev.env_rx (depth : Nat) (e : EnvStep) (d : FifoDev) : ∃ more, (d.env depth e).rx = d.rx ++ more := by
  rcases d.env_cases depth e with h | ⟨b, h, -⟩ | h | ⟨b, tx, -, h⟩ | ⟨b, h⟩ <;> rw [h]
  case inr.inl => exact ⟨[b], rfl⟩
  all_goals exact ⟨[], (List.append_nil _).symm⟩

/-- Settles O40: a step only moves bytes along `transmitted`, and a DATA write with room puts its byte at its end. -/
theorem fifoTransmitsInOrder : Obligations.FifoTransmitsInOrder := by
  intro depth d
  refine ⟨fun e => d.env_transmitted depth e, fun v h => ?write, fun b h => ?arrive, fun e => d.env_rx depth e⟩
  case write => simp [FifoDev.writeData_of_room v h]
  case arrive => rw [FifoDev.rxArrive_of_room b h]

/-! ### The handshake (R195 a, b) -/

/-- During a transfer the window is valid, and the device is programmed and so has DLAB 0 (R42, R51). -/
theorem RunInv.window_dlab_of_transfer (h : RunInv s) (ht : transferState s.st = true) :
    windowValid s ∧ s.dlab = false := by
  have hi := h.inited.1 ht
  exact ⟨h.window.1 hi, (h.program.2 hi).dlab⟩

/-- A queue holds at least one byte, the FIFOs enabled or not (R180). -/
theorem RunInv.cap_pos (h : RunInv s) (d : FifoDev) : 0 < d.cap s.params.fifoDepth := by
  have hp := h.params
  simp only [paramsOk, Params.wellFormed, Bool.and_eq_true, decide_eq_true_eq] at hp
  unfold FifoDev.cap
  split <;> omega

/-- A DATA write that finds the transmit queue empty is queued (R184, R195 a). -/
theorem RunInv.write_data_fifo (h : RunInv s) (v : Byte) (n : Nat) (htx : d.tx = []) :
    (Device.fifo d).write s.params.fifoDepth .data v n = .fifo { d with tx := [v] } := by
  have hroom : d.tx.length < d.cap s.params.fifoDepth := by simpa [htx] using h.cap_pos d
  simp [Device.write, FifoDev.write, FifoDev.writeData_of_room v hroom, htx]

/-- Settles O59: by the handshake TXWRITE finds the transmit queue empty and RXREAD a byte there, and with DLAB 0 both
accesses reach DATA. -/
theorem fifoHandshakeLosesNothing : Obligations.FifoHandshakeLosesNothing := by
  intro s d h hdev
  obtain ⟨htransmit, hreceive⟩ := h.handshake
  rw [hdev] at htransmit hreceive
  refine ⟨fun hst => ?txwrite, fun hst => ?rxread⟩
  case txwrite =>
    obtain ⟨hv, hdlab⟩ := h.window_dlab_of_transfer (by rw [hst]; rfl)
    refine ⟨_, controllerStep_of_row hst ⟨hv, rfl⟩, ?_⟩
    simp [hdlab, hdev, h.write_data_fifo s.val s.draws (htransmit hst)]
  case rxread =>
    obtain ⟨hv, hdlab⟩ := h.window_dlab_of_transfer (by rw [hst]; rfl)
    obtain ⟨b, rx, hrx⟩ := List.exists_cons_of_ne_nil (hreceive hst)
    refine ⟨_, b, rx, hrx, controllerStep_of_row hst ⟨hv, rfl⟩, ?_, ?_⟩
    · simp [hdlab, hdev, read_data_fifo s.draws hrx]
    · simp [hdlab, hdev, read_data_fifo s.draws hrx, rspWord, statusCode]

end Sys2Proof.Machine
end

section
/-! `DEV_REGFILE` (R170 to R175, the spec's own choice, D18): its writes by offset and DLAB, and the test's actions. -/

namespace Sys2Proof.Machine

variable {s t : State} {d : RegFile} {off : Offset} {v : Byte}

/-! ### The writes (R172) -/

/-- A write's transaction word runs the access rule of its offset (R76, R78). -/
theorem exec_writeWord (off : Offset) (v : Byte) :
    exec (decodeXact s.dlab (xactWord true off v)) s = windowWrite off v s := by
  rw [← windowAccess_eq_exec]
  simp [windowAccess]

/-- The write faces of offsets 5, 6 and 7 are refused (R156, R158, R160). -/
theorem windowWrite_refused (h : 5 ≤ off.toNat) : ∃ r, windowWrite off v s = .refused r := by
  obtain rfl | rfl | rfl : off = 5 ∨ off = 6 ∨ off = 7 := by revert off; decide
  · exact ⟨.writeLineStatus, rfl⟩
  · exact ⟨.writeOffset6, rfl⟩
  · exact ⟨.writeOffset7, rfl⟩

/-- `d` after a write at an offset below 5: the byte is stored in the register of the offset under
DLAB, bit 7 of `lcr` (R172). -/
def RegFile.writeAt (off : Offset) (v : Byte) (d : RegFile) : RegFile :=
  if off = 0#3 then (if d.lcr.getLsbD 7 = false then { d with data := v } else { d with dll := v })
  else if off = 1#3 then (if d.lcr.getLsbD 7 = false then { d with ier := v } else { d with dlm := v })
  else if off = 2#3 then { d with fcr := v }
  else if off = 3#3 then { d with lcr := v }
  else { d with mcr := v }

/-- No write reaches the status byte. -/
theorem RegFile.writeAt_lsr (off : Offset) (v : Byte) (d : RegFile) : (d.writeAt off v).lsr = d.lsr := by
  unfold RegFile.writeAt
  split_ifs <;> rfl

theorem windowWrite_regfile (hdev : s.dev = .regfile d) (h : off.toNat < 5) :
    windowWrite off v s = .next { s with
      trace := s.trace ++ [.wr off v], draws := s.draws + 1, dev := .regfile (d.writeAt off v) } := by
  have hdlab : s.dlab = d.lcr.getLsbD 7 := by rw [State.dlab, hdev]; rfl
  obtain rfl | rfl | rfl | rfl | rfl : off = 0 ∨ off = 1 ∨ off = 2 ∨ off = 3 ∨ off = 4 := by revert off; decide
  · refine (windowWrite_data v).trans (next_deviceWrite ?_)
    rw [hdlab, hdev, RegFile.writeAt]
    cases d.lcr.getLsbD 7 <;> rfl
  · refine (windowWrite_ier v).trans (next_deviceWrite ?_)
    rw [hdlab, hdev, RegFile.writeAt]
    cases d.lcr.getLsbD 7 <;> rfl
  · exact next_deviceWrite (by rw [hdev]; rfl)
  · exact next_deviceWrite (by rw [hdev]; rfl)
  · exact next_deviceWrite (by rw [hdev]; rfl)

/-- Settles O34: a write below offset 5 stores the byte in the register selected, and the others are refused. -/
theorem regfileWritesByOffset : Obligations.RegfileWritesByOffset := by
  intro s d off v hdev
  rw [exec_writeWord]
  refine ⟨windowWrite_regfile hdev, windowWrite_refused, fun t d' ht hd' => ?_⟩
  rcases Nat.lt_or_ge off.toNat 5 with hoff | hoff
  · rw [windowWrite_regfile hdev hoff] at ht
    cases ht
    cases hd'
    exact d.writeAt_lsr off v
  · obtain ⟨r, hr⟩ := windowWrite_refused (v := v) (s := s) hoff
    exact nomatch hr.symm.trans ht

/-! ### The test's actions (R174) -/

/-- Settles O37: the step is the test's action in IDLE and none outside it, and the action is the one of R174. -/
theorem testActsOnRegfile : Obligations.TestActsOnRegfile := by
  intro s d rest e hf hdev hm
  refine ⟨if s.st = .idle then d.env e else d, ?step, fun hst => if_neg hst, fun hst => ?idle, fun he => ?other⟩
  case step =>
    rw [step_env hf hm, hdev]
    by_cases hst : s.st = .idle <;> simp [Device.env, hst]
  case idle =>
    rw [if_pos hst]
    refine ⟨fun he => ?_, fun he => ?_, fun he => ?_, fun he => ?_, fun v he => ?_, fun b bs he => ?_⟩ <;>
      rw [he] <;> rfl
  case other =>
    rcases he with ⟨b, rfl⟩ | rfl | rfl <;> exact ite_self d

end Sys2Proof.Machine
end

section
/-! The interrupt output (60_exceptions.md R206): what each device needs to signal, and what all of them share. -/

namespace Sys2Proof.Machine

/-- What the interrupt output of `DEV_FIFO` is (R191, the pending condition of R190 unfolded). -/
theorem FifoDev.irq_iff (d : FifoDev) :
    d.irq = true ↔ d.mcr.getLsbD 3 = true ∧ d.ier.getLsbD 0 = true ∧ triggerBytes d.trig ≤ d.rx.length := by
  simp only [FifoDev.irq, FifoDev.pending, out2Of, rxIrqEnabled, Bool.and_eq_true, decide_eq_true_eq]

/-- What the interrupt output of the abstract device is (log entry 15): the free choice counts only when the source is
enabled, the output routed and a byte pending. -/
theorem AbsDev.irq_iff (choice : Bool) (d : AbsDev) :
    d.irq choice = true ↔
      d.ier.getLsbD 0 = true ∧ d.mcr.getLsbD 3 = true ∧ d.rxEmpty = false ∧ choice = true := by
  simp only [AbsDev.irq, rxIrqEnabled, out2Of, Bool.and_eq_true, Bool.not_eq_true', and_assoc]

/-- A device that signals has the data-received source enabled (R147) and OUT2 asserted (R153). -/
theorem Device.enabled_routed_of_irq {choice : Bool} {d : Device} (h : d.irq choice = true) :
    d.ier.getLsbD 0 = true ∧ d.mcr.getLsbD 3 = true := by
  cases d with
  | abs d =>
    obtain ⟨hier, hmcr, -, -⟩ := (d.irq_iff choice).mp h
    exact ⟨hier, hmcr⟩
  | regfile d => exact nomatch h
  | fifo d =>
    obtain ⟨hmcr, hier, -⟩ := d.irq_iff.mp h
    exact ⟨hier, hmcr⟩

/-- Settles O39: each device signals only when enabled and routed; `DEV_FIFO` then by its queue, `DEV_REGFILE` never,
the abstract device only with a byte pending. -/
theorem interruptIsEnabledAndRouted : Obligations.InterruptIsEnabledAndRouted := by
  intro s
  refine ⟨fun d hdev => ?fifo, fun d hdev => ?regfile, fun hier => ?disabled, fun hmcr => ?unrouted,
    fun d hdev hempty => ?noByte⟩
  case fifo =>
    rw [State.irq, hdev]
    exact d.irq_iff
  case regfile =>
    rw [State.irq, hdev]
    rfl
  case disabled =>
    exact Bool.eq_false_iff.mpr (mt (fun h => (Device.enabled_routed_of_irq h).1) (Bool.eq_false_iff.mp hier))
  case unrouted =>
    exact Bool.eq_false_iff.mpr (mt (fun h => (Device.enabled_routed_of_irq h).2) (Bool.eq_false_iff.mp hmcr))
  case noByte =>
    rw [State.irq, hdev]
    refine Bool.eq_false_iff.mpr fun hirq => ?_
    obtain ⟨-, -, hbyte, -⟩ := (d.irq_iff _).mp hirq
    exact nomatch hbyte.symm.trans hempty

end Sys2Proof.Machine
end

section
/-! The reset input (70_reset_and_hazards.md R230, R234), and that the controller is never stuck (R246). -/

namespace Sys2Proof.Machine

variable {s : State}

/-! ### The reset input (R230) -/

/-- The reset input clears the controller and draws anew what it leaves unspecified. -/
theorem step_reset {rest : List Move} (hf : noOtherMaster s) (hm : s.moves = .reset :: rest) :
    step s = .next (controllerReset { s with moves := rest }) := by
  rw [step_own hf, moveStep, hm]

/-- Settles O42: the free values drawn for `base` and `cnt` are cut to their widths, and all else is cleared or kept. -/
theorem resetForgetsTheHandle : Obligations.ResetForgetsTheHandle := by
  intro s rest hf hm
  have hbase : (controllerReset { s with moves := rest }).base < 2 ^ s.params.addrWidth :=
    Nat.mod_lt _ (Nat.two_pow_pos _)
  have hcnt : (controllerReset { s with moves := rest }).cnt < 2 ^ cntWidth s.params.budget :=
    Nat.mod_lt _ (Nat.two_pow_pos _)
  exact ⟨_, step_reset hf hm, rfl, rfl, rfl, rfl, rfl, rfl, hbase, hcnt, rfl, rfl, rfl, rfl, hf⟩

/-! ### The controller is never stuck (R246) -/

/-- In IDLE every command is accepted, but for a CREATE of a window that is not the device's (R90, R59). -/
theorem execCommand_steps {w : Nat} (hst : s.st = .idle)
    (hw : cmdOp w = .create → windowAt s.params (cmdArg s.params.addrWidth w)) : ∃ t, execCommand w s = .next t := by
  simp only [execCommand_idle hst w]
  cases hop : cmdOp w with
  | create => exact ⟨_, .inl ⟨rfl, hw hop, rfl⟩⟩
  | size => exact ⟨_, .inr (.inl ⟨rfl, rfl⟩)⟩
  | send =>
    cases s.inited with
    | false => exact ⟨_, .inr (.inr (.inr (.inr ⟨.inl rfl, rfl, rfl⟩)))⟩
    | true => exact ⟨_, .inr (.inr (.inl ⟨rfl, rfl, rfl⟩))⟩
  | recv =>
    cases s.inited with
    | false => exact ⟨_, .inr (.inr (.inr (.inr ⟨.inr rfl, rfl, rfl⟩)))⟩
    | true => exact ⟨_, .inr (.inr (.inr (.inl ⟨rfl, rfl, rfl⟩)))⟩

/-- So the dispatch has a step, with nothing offered too (R98), where a CREATE next at the port is of the device's
window. -/
theorem execIdle_steps (hst : s.st = .idle) (hw : ∀ w ws, s.port = w :: ws → cmdOp w = .create →
    windowAt s.params (cmdArg s.params.addrWidth w)) : ∃ t, execIdle s = .next t := by
  cases hp : s.port with
  | nil => exact ⟨s, execIdle_next.mpr (.inl ⟨hp, rfl⟩)⟩
  | cons w ws =>
    obtain ⟨t, ht⟩ := execCommand_steps (s := { s with port := ws }) hst (hw w ws hp)
    exact ⟨t, execIdle_next.mpr (.inr ⟨w, ws, hp, ht⟩)⟩

/-- Settles O48: a command in progress has its step, and IDLE stays or accepts; the one CREATE it may find is of
`DEV_BASE`, whose window the constraints on the parameters make valid. -/
theorem controllerAlwaysSteps : Obligations.ControllerAlwaysSteps := by
  intro s h hcreate
  by_cases hst : s.st = .idle
  · rw [controllerStep_idle hst]
    refine execIdle_steps hst fun w ws hp hop => ?_
    have harg : cmdArg s.params.addrWidth w = s.params.devBase :=
      hcreate w ws hst hp (by rw [mod_four_eq_bits, hop]; rfl)
    rw [harg]
    exact windowAt_devBase h.params
  · obtain ⟨t, ht, -⟩ := h.controllerStep_progress hst
    exact ⟨t, ht⟩

end Sys2Proof.Machine
end

section
/-! Proofs about an access outside the device's window: the row stops at its request (O19). -/

namespace Sys2Proof.Machine

variable {s : State} {i : Instr}

/-- The row's first action, in this state, is a request of the controller (R51, R80). -/
def issuesFirst (i : Instr) (s : State) : Prop := ∃ r k, exec i s = andThen (issue r s) k

/-- The rows of CREATE and the two data paths do so in every state (R101 to R108, R125, R127). -/
theorem issuesFirst_of_accessRow :
    ∀ i ∈ [Instr.init1, .init2, .init3a, .init3b, .init4, .init5, .init6, .init7, .txwrite, .rxread],
      issuesFirst i s := by
  simp only [List.forall_mem_cons]
  exact ⟨⟨_, _, rfl⟩, ⟨_, _, rfl⟩, ⟨_, _, rfl⟩, ⟨_, _, rfl⟩, ⟨_, _, rfl⟩, ⟨_, _, rfl⟩, ⟨_, _, rfl⟩, ⟨_, _, rfl⟩,
    ⟨_, _, rfl⟩, ⟨_, _, rfl⟩, nofun⟩

/-- Before the budget is spent a step of the polling unit is a poll, which reads first (R121, R123). -/
theorem pollStep_of_ne_budget {mask : Byte} {h m : SeqState} {f : Failure} (hc : s.cnt ≠ s.params.budget) :
    pollStep mask h m f s = poll mask h m s := if_neg hc

theorem issuesFirst_of_pollRow (hc : s.cnt ≠ s.params.budget) :
    ∀ i ∈ [Instr.txpoll, .rxpoll], issuesFirst i s := by
  simp only [List.forall_mem_cons]
  exact ⟨⟨_, _, pollStep_of_ne_budget hc⟩, ⟨_, _, pollStep_of_ne_budget hc⟩, nofun⟩

/-- Where every request is refused, so is a row that issues one first. -/
theorem issuesFirst.exec_refused {why : Refusal} (hi : issuesFirst i s) (h : ∀ r, issue r s = .refused why) :
    exec i s = .refused why := by
  obtain ⟨r, k, hexec⟩ := hi
  rw [hexec, h r]
  rfl

/-- Outside the device's window such a row stops, by the name of the premise that fails (R51, R59). -/
theorem issuesFirst.stops_outside (hi : issuesFirst i s) :
    (2 ^ s.params.addrWidth ≤ s.base + 7 → exec i s = .refused .windowWraps) ∧
    (s.base + 7 < 2 ^ s.params.addrWidth → s.base ≠ s.params.devBase → exec i s = .refused .windowNotDevice) :=
  ⟨fun hwrap => hi.exec_refused fun _ => underWindow_wraps hwrap,
    fun hfits hdev => hi.exec_refused fun _ => underWindow_notDevice hfits hdev⟩

/-- Settles O19: each row's first action is a request, a poll's while its budget lasts, and the request stops it. -/
theorem accessOutsideTheWindowStops : Obligations.AccessOutsideTheWindowStops := by
  intro s
  refine ⟨fun i hi => ?_, fun hc i hi => ?_⟩
  · exact (issuesFirst_of_accessRow i hi).stops_outside
  · exact (issuesFirst_of_pollRow hc i hi).stops_outside

end Sys2Proof.Machine
end
